-- ==== Sys2Proof/Word.lean ====
section
/-! DEFINITION. The byte of the three links: sample link, group line and readout port (R174). -/

namespace Sys2Proof

/-- One byte of a link. Bit 7 is the most significant (R174). -/
abbrev Byte := BitVec 8

end Sys2Proof
end

