-- ==== Sys2Proof/Syntax.lean ====
section
/-! DEFINITION. The commands: one constructor for each of the forty rows of the opcode table.
The table gives no operands; each row carries what crosses the pin at that event. -/

namespace Sys2Proof

/-- The two carrier channels of the group line, low and high band (R52). -/
inductive Channel where
  | l
  | h
  deriving DecidableEq, Repr

/-- What a reset row reports (R143): that the reset is held (RESETN low, or power-on reset in progress),
or its end, with the level of PFW then and whether CSN is low then (R161). -/
inductive ResetPhase where
  | held
  | ended (pfw csnLow : Bool)
  deriving DecidableEq, Repr

/-- What CSN does without a command acting (R160, R161): a transaction has begun and these bytes have been
taken; it ends after these bytes, before its command acts; or CSN rises at any other time, after a command
has acted or at the end of a transaction that is not served. -/
inductive CsnEvent where
  | begun (taken : List Byte)
  | beforeActing (taken : List Byte)
  | afterwards
  deriving DecidableEq, Repr

/-- One command: an event at a pin, the running out of a timer, a step of the part that a processed
set has made due, or a whole transaction of the host at the moment it acts (R160). -/
inductive Instr where
  /-- SAMPLE_SET_FRAME (R1): SFRM is released after these whole bytes and this many bits of a
  partial byte; `sfrmInIdle` says SFRM was asserted while the Sample Port was IDLE. -/
  | sampleSetFrame (bytes : List Byte) (partialBits : Nat) (sfrmInIdle : Bool)
  /-- WATCHDOG_EXPIRY (R8). -/
  | watchdogExpiry
  /-- BLOCK_CLOSE (R19, R20). -/
  | blockClose
  /-- COUNT_COMPLETE_BOUNDARY (R34). -/
  | countCompleteBoundary
  /-- UNALIGNED_BOUNDARY (R35). -/
  | unalignedBoundary
  /-- WINDOW_CLOSE (R38). -/
  | windowClose
  /-- RECEPTION_START (R70): the start bit of a byte on RXD of the channel. -/
  | receptionStart (ch : Channel)
  /-- COMPLETE_FRAME (R71): the reception in progress has reached its expected length with these
  bytes. -/
  | completeFrame (ch : Channel) (bytes : List Byte)
  /-- MALFORMED_RECEPTION (R70): a bad kind in the first byte, or a byte error. -/
  | malformedReception (ch : Channel)
  /-- RECEPTION_TIMEOUT (R70): more than 2 byte times without the next byte. -/
  | receptionTimeout (ch : Channel)
  /-- RECEIVE_READY (R70): RXD has carried no byte for more than 2 byte times. -/
  | receiveReady (ch : Channel)
  /-- CARRIER_SENSE_CHANGE (R63, R64): the channel's CS input takes this level. -/
  | carrierSenseChange (ch : Channel) (active : Bool)
  /-- QUIET_GAP (R63): 4 ms of continuous CS inactivity. -/
  | quietGap (ch : Channel)
  /-- BACKOFF_END (R64): the drawn slots have passed with CS inactive. -/
  | backoffEnd (ch : Channel)
  /-- ECHO (R65, R66): the next complete byte on RXD while sending, and whether it carries a byte
  error. -/
  | echo (ch : Channel) (byte : Byte) (byteError : Bool)
  /-- MISSING_ECHO (R67): 2 byte times without the echo. -/
  | missingEcho (ch : Channel)
  /-- JABBER_GUARD (R69): TXEN has stayed active beyond 20 ms. -/
  | jabberGuard (ch : Channel)
  /-- CUTOFF_SAMPLE (R116): the CUTOFF pin is sampled at this level. -/
  | cutoffSample (level : Bool)
  /-- HOLD_ENTRY (R149): PFW is active; `pfwStill` is its level when the entry is done (R151). -/
  | holdEntry (pfwStill : Bool)
  /-- PFW_INACTIVE (R151). -/
  | pfwInactive
  /-- RELEASE_TIMER (R152): the release timer reaches 819,200 ticks. -/
  | releaseTimer
  /-- POWER_ON_RESET (R143): in progress, or at its end. -/
  | powerOnReset (phase : ResetPhase)
  /-- RESETN (R143): held low, or released. -/
  | resetn (phase : ResetPhase)
  /-- LOAD_CONFIG (R145): the configuration block of 126 bytes. -/
  | loadConfig (block : List Byte)
  /-- READ_STATUS (R164). -/
  | readStatus
  /-- READ_TOTALS (R165). -/
  | readTotals
  /-- READ_RECORD (R137). -/
  | readRecord (page slot : Byte)
  /-- RELEASE_PAGE (R134). -/
  | releasePage (page : Byte)
  /-- WRITE_LINES (R112): mode 0 SET, 1 OR, 2 AND (R178). -/
  | writeLines (mode value : Byte)
  /-- RELEASE_CUTOFF (R118). -/
  | releaseCutoff
  /-- READ_ALERT (R171). -/
  | readAlert
  /-- ACK_ALERT (R172). -/
  | ackAlert (cause : Byte)
  /-- SET_MASK (R169): bit (code - 1) for each cause (R178). -/
  | setMask (mask : BitVec 16)
  /-- SET_DAY_POSITION (R44). -/
  | setDayPosition (day iod : BitVec 16) (elapsed : BitVec 32)
  /-- READ_PEER (R166). -/
  | readPeer (station : Byte)
  /-- ENABLE_CHANNEL (R76): channel 0 L, 1 H; action 0 DISABLE, 1 ENABLE (R178). -/
  | enableChannel (channel action : Byte)
  /-- RESYNC (R157). -/
  | resync
  /-- UNKNOWN_COMMAND (R161): a command byte naming no command. -/
  | unknownCommand (code : Byte)
  /-- DISCARDED_TRANSACTION (R160, R161): CSN rises before the command acts, and the other events of CSN
  that no command's own row holds. -/
  | discardedTransaction (csn : CsnEvent)
  /-- PFW_ACTIVE_IN_HOLD (R151). -/
  | pfwActiveInHold
  deriving DecidableEq, Repr

end Sys2Proof
end

