-- ==== Sys2Proof/Decode.lean ====
section
/-! DEFINITION. Reading and writing the bytes of the readout port's transactions (R160, R178), the
byte-order helpers of every link (R174), the length a frame's first byte fixes (R70), and the reading
of the opcode table's bits: the table gives its rows no bits. -/

namespace Sys2Proof

/-- A number in `n` bytes, most significant byte first (R174). -/
def beBytes : Nat → Nat → List Byte
  | 0, _ => []
  | n + 1, v => BitVec.ofNat 8 (v / 256 ^ n) :: beBytes n v

/-- The number that bytes carry, most significant byte first (R174). -/
def beNat (bs : List Byte) : Nat :=
  bs.foldl (fun v b => v * 256 + b.toNat) 0

/-- A signed number in `n` bytes, two's complement (R174). -/
def beInt (n : Nat) (v : Int) : List Byte :=
  beBytes n (v % (256 ^ n : Nat)).toNat

/-- The signed number that bytes carry, two's complement (R174). -/
def signedOf (bs : List Byte) : Int :=
  let v : Int := beNat bs
  if 2 * v < (256 ^ bs.length : Nat) then v else v - (256 ^ bs.length : Nat)

/-- `len` bytes from an offset counted from 0, the first byte sent. -/
def bytesAt (bs : List Byte) (off len : Nat) : List Byte :=
  (bs.drop off).take len

/-- The unsigned field of `len` bytes at an offset. -/
def fieldAt (bs : List Byte) (off len : Nat) : Nat :=
  beNat (bytesAt bs off len)

/-- The expected length of a group-line frame by its first byte (R70, R175): 15 for kind 1, 11 for
kind 2, and none for any other kind. -/
def expectedLength (first : Byte) : Option Nat :=
  match first.toNat / 16 with
  | 1 => some 15
  | 2 => some 11
  | _ => none

/-- How many argument bytes a command byte takes, and `none` where its code names no command: the
first table of R178. -/
def argumentBytes (code : Byte) : Option Nat :=
  match code.toNat with
  | 0x01 => some 126
  | 0x02 => some 0
  | 0x03 => some 0
  | 0x04 => some 2
  | 0x05 => some 1
  | 0x06 => some 2
  | 0x07 => some 0
  | 0x08 => some 0
  | 0x09 => some 1
  | 0x0A => some 2
  | 0x0B => some 8
  | 0x0C => some 1
  | 0x0D => some 2
  | 0x0E => some 0
  | _ => none

/-- The bytes taken do not yet make a command act (R161). -/
def notYetActing : List Byte → Bool
  | [] => true
  | code :: args =>
    match argumentBytes code with
    | none => false
    | some n => decide (args.length < n)

/-- The byte of an argument list at an offset. -/
def argByte (args : List Byte) (off : Nat) : Byte :=
  args.getD off 0

/-- The command a known code and its argument bytes spell (R178). -/
def commandOf (code : Byte) (args : List Byte) : Instr :=
  match code.toNat with
  | 0x01 => .loadConfig args
  | 0x02 => .readStatus
  | 0x03 => .readTotals
  | 0x04 => .readRecord (argByte args 0) (argByte args 1)
  | 0x05 => .releasePage (argByte args 0)
  | 0x06 => .writeLines (argByte args 0) (argByte args 1)
  | 0x07 => .releaseCutoff
  | 0x08 => .readAlert
  | 0x09 => .ackAlert (argByte args 0)
  | 0x0A => .setMask (BitVec.ofNat 16 (fieldAt args 0 2))
  | 0x0B => .setDayPosition (BitVec.ofNat 16 (fieldAt args 0 2)) (BitVec.ofNat 16 (fieldAt args 2 2))
      (BitVec.ofNat 32 (fieldAt args 4 4))
  | 0x0C => .readPeer (argByte args 0)
  | 0x0D => .enableChannel (argByte args 0) (argByte args 1)
  | 0x0E => .resync
  | _ => .unknownCommand code

/-- The command that one CSN-low period of these MOSI bytes is (R160, R161): the first whole byte is
the command byte, its code fixes the number of argument bytes, the bytes after them are ignored, and
a period that ends before the command acts is discarded. -/
def transaction : List Byte → Instr
  | [] => .discardedTransaction (.beforeActing [])
  | code :: args =>
    match argumentBytes code with
    | none => .unknownCommand code
    | some n =>
      if args.length < n then .discardedTransaction (.beforeActing (code :: args))
      else commandOf code (args.take n)

/-- The MOSI bytes up to the moment the command acts or CSN rises before it, for the rows that are whole
transactions of the readout port (R160, R178). -/
def mosi : Instr → Option (List Byte)
  | .loadConfig block => some (0x01#8 :: block)
  | .readStatus => some [0x02#8]
  | .readTotals => some [0x03#8]
  | .readRecord page slot => some [0x04#8, page, slot]
  | .releasePage page => some [0x05#8, page]
  | .writeLines mode value => some [0x06#8, mode, value]
  | .releaseCutoff => some [0x07#8]
  | .readAlert => some [0x08#8]
  | .ackAlert cause => some [0x09#8, cause]
  | .setMask mask => some (0x0A#8 :: beBytes 2 mask.toNat)
  | .setDayPosition day iod elapsed =>
      some (0x0B#8 :: (beBytes 2 day.toNat ++ beBytes 2 iod.toNat ++ beBytes 4 elapsed.toNat))
  | .readPeer station => some [0x0C#8, station]
  | .enableChannel channel action => some [0x0D#8, channel, action]
  | .resync => some [0x0E#8]
  | .unknownCommand code => some [code]
  | .discardedTransaction (.beforeActing taken) => some taken
  | .discardedTransaction (.begun _) => none
  | .discardedTransaction .afterwards => none
  | .sampleSetFrame _ _ _ => none
  | .watchdogExpiry => none
  | .blockClose => none
  | .countCompleteBoundary => none
  | .unalignedBoundary => none
  | .windowClose => none
  | .receptionStart _ => none
  | .completeFrame _ _ => none
  | .malformedReception _ => none
  | .receptionTimeout _ => none
  | .receiveReady _ => none
  | .carrierSenseChange _ _ => none
  | .quietGap _ => none
  | .backoffEnd _ => none
  | .echo _ _ _ => none
  | .missingEcho _ => none
  | .jabberGuard _ => none
  | .cutoffSample _ => none
  | .holdEntry _ => none
  | .pfwInactive => none
  | .releaseTimer => none
  | .powerOnReset _ => none
  | .resetn _ => none
  | .pfwActiveInHold => none

/-- The command that a word spells by the opcode table's bits. The table gives none of its forty
rows any bits (no pattern, no mask, no fields), so no word spells one (log 25). -/
def decodeTableWord (_nbits _w : Nat) : Option Instr := none

end Sys2Proof
end

