-- ==== Sys2Proof/Config.lean ====
section
/-! DEFINITION. The values the manual leaves open. Each is opaque: no proof can see what it is. -/

namespace Sys2Proof

/-- The whole number behind the `n`-th backoff draw of the part, before it is reduced to the range
of R64: "Any value in that range may be drawn, and draws on the two channels are independent."
Free value (log 6); `State.draws` counts the draws. -/
opaque Config.backoffDraw : Nat → Nat

/-- What MISO carries at a byte of a transaction that the port does not serve, because its CSN fell before
a reset's end (R161): R160 leaves MISO undriven while CSN is high and does not say what it does here. Free
value (log 8). -/
opaque Config.unservedMiso : Nat → Option Byte

end Sys2Proof
end

