-- ==== Sys2Proof/Machine/State.lean ====
section
/-! DEFINITION. The state of the part, block by block, as plain data, and its values after power-on
reset. Pins and flags that are functions of other state (CTL0 to CTL3, ALERTN, LTXEN, HTXEN, TXD,
"blocked") are computed in Machine/Pins.lean and the operations files. -/

namespace Sys2Proof.Machine

/-! ## Names the manual gives -/

/-- The operating state (table before R143). -/
inductive OpState where
  | start
  | run
  | resync
  | hold
  deriving DecidableEq, Repr

/-- The Sample Port's state (R3, R12). -/
inductive PortState where
  | idle
  | running
  | lost
  deriving DecidableEq, Repr

/-- A channel's state (R53). -/
inductive ChanState where
  | off
  | good
  | degraded
  | fault
  deriving DecidableEq, Repr

/-- A channel's access state (table before R62). -/
inductive AccessState where
  | idle
  | defer
  | backoff
  | sending
  deriving DecidableEq, Repr

/-- A channel's receive state (R70). -/
inductive RecvState where
  | off
  | waitQuiet
  | ready
  | receiving
  | discarding
  deriving DecidableEq, Repr

/-- The two frame kinds of the group line (R54, R55). -/
inductive FrameKind where
  | report
  | presence
  deriving DecidableEq, Repr

/-- The status of one channel's copy of a send-list entry. -/
inductive CopyStatus where
  | pending
  | sent
  | dropped
  deriving DecidableEq, Repr

/-- The report outcome: the REPORT of the open window (R57, R60, R61). -/
inductive ReportOutcome where
  | noReport
  | pending
  | sent
  | notSent
  deriving DecidableEq, Repr

/-- The state of a peer entry (R78). -/
inductive PeerState where
  | absent
  | present
  | silent
  deriving DecidableEq, Repr

/-- The state of a page (R126). -/
inductive PageState where
  | empty
  | filling
  | sealed
  deriving DecidableEq, Repr

/-- A tariff band, or the unbanded totals (R46, R47). -/
inductive Band where
  | b0
  | b1
  | b2
  | b3
  | unbanded
  deriving DecidableEq, Repr

/-- The netting mode (R17, R18). -/
inductive NettingMode where
  | phaseSum
  | perPhase
  deriving DecidableEq, Repr

/-- The nine alert causes, in priority order from highest (R167). -/
inductive Cause where
  | supply
  | cutoff
  | duplicateStation
  | storeBlocked
  | exportUnshed
  | channel
  | alignment
  | sample
  | record
  deriving DecidableEq, Repr

/-- The cutoff re-arm state (R168). -/
inductive RearmState where
  | armed
  | waiting
  deriving DecidableEq, Repr

/-- The transaction state of the readout port (table before R160). -/
inductive TxnState where
  | idle
  | takingCommand
  | takingArguments
  | responding
  | ignoring
  deriving DecidableEq, Repr

/-- The result codes (R163, R178). -/
inductive ResultCode where
  | ok
  | okTotalsKept
  | refusedState
  | badArg
  | badConfig
  | stillActive
  | nothing
  | empty
  | unknownCommand
  deriving DecidableEq, Repr

/-! ## Shared data -/

/-- A timer: `none` while it is stopped, and otherwise the ticks of the reference clock that it runs
for from its last start. Its running out is a command of the table (log 1). -/
abbrev Timer := Option Nat

/-- An interval ID: the day, 0 to 65535, and the interval-of-day (R33). -/
structure IntervalId where
  day : Nat
  iod : Nat
  deriving DecidableEq, Repr

/-- A switch point of the tariff calendar (R46). -/
structure SwitchPoint where
  iod  : Nat
  band : Band
  deriving DecidableEq, Repr

/-- The accepted configuration (R145 to R147): what is fixed from acceptance until the next reset.
`window` is the clamped W (R146). -/
structure Setup where
  station       : Nat
  group         : Nat
  phase1        : Bool
  phase2        : Bool
  phase3        : Bool
  gain1         : Nat
  gain2         : Nat
  gain3         : Nat
  mode          : NettingMode
  quantum       : Nat
  lengthCode    : Nat
  calendar      : List SwitchPoint
  baseCap       : Nat
  ceilingCap    : Nat
  holdOffLength : Nat
  restoreCount  : Nat
  enableL       : Bool
  enableH       : Bool
  presence      : Nat
  window        : Nat
  creep         : Nat
  wired         : BitVec 4
  deriving DecidableEq, Repr

/-- One signed product for each phase, in pu (R11, R15). -/
structure Products where
  p1 : Int
  p2 : Int
  p3 : Int
  deriving DecidableEq, Repr

/-! ## Sample Port -/

/-- The Sample Port (R14). `expected` is `none` while the expected sequence is open (R7). -/
structure SamplePort where
  state    : PortState
  expected : Option (BitVec 8)
  missing  : Nat
  lastGood : Products
  watchdog : Timer
  deriving DecidableEq, Repr

/-- R14, after power-on reset and after RESETN. -/
def SamplePort.reset : SamplePort :=
  { state := .idle, expected := none, missing := 0, lastGood := ⟨0, 0, 0⟩, watchdog := none }

/-! ## Netting Engine -/

/-- The Netting Engine (R30). -/
structure NettingEngine where
  accImport     : Nat
  accExport     : Nat
  blockSets     : Nat
  residueImport : Nat
  residueExport : Nat
  heldSeen      : Bool
  faultSeen     : Bool
  deriving DecidableEq, Repr

/-- R30, after power-on reset. -/
def NettingEngine.reset : NettingEngine :=
  { accImport := 0, accExport := 0, blockSets := 0, residueImport := 0, residueExport := 0,
    heldSeen := false, faultSeen := false }

/-! ## Interval Timer -/

/-- An arrival capture (R41). -/
structure Capture where
  elapsed : Nat
  id      : IntervalId
  since   : Nat
  deriving DecidableEq, Repr

/-- The Interval Timer (R45). `window` holds the ID being settled while the window is open (R38). -/
structure IntervalTimer where
  id        : IntervalId
  elapsed   : Nat
  startPos  : Nat
  length    : Option Nat
  trim      : Int
  window    : Option IntervalId
  captureL  : Option Capture
  captureH  : Option Capture
  presence  : Nat
  deriving DecidableEq, Repr

/-- R45, after either reset. The presence counter before acceptance is a DESIGN CHOICE (log 5). -/
def IntervalTimer.reset : IntervalTimer :=
  { id := ⟨0, 0⟩, elapsed := 0, startPos := 0, length := none, trim := 0, window := none,
    captureL := none, captureH := none, presence := 0 }

/-! ## Register Bank -/

/-- An import and an export count of whole quanta. -/
structure Pair where
  imp : Nat
  exp : Nat
  deriving DecidableEq, Repr

/-- The ten band totals (R50). -/
structure Totals where
  b0       : Pair
  b1       : Pair
  b2       : Pair
  b3       : Pair
  unbanded : Pair
  deriving DecidableEq, Repr

/-- The Register Bank (R51), less its calendar, which stands in the accepted configuration. -/
structure RegisterBank where
  band      : Band
  impQuanta : Nat
  expQuanta : Nat
  saturated : Bool
  totals    : Totals
  deriving DecidableEq, Repr

/-- R51, after power-on reset. -/
def RegisterBank.reset : RegisterBank :=
  { band := .b0, impQuanta := 0, expQuanta := 0, saturated := false,
    totals := ⟨⟨0, 0⟩, ⟨0, 0⟩, ⟨0, 0⟩, ⟨0, 0⟩, ⟨0, 0⟩⟩ }

/-! ## Line Controller -/

/-- One carrier channel (table before R52, R77). `committed` is the serial of the entry the channel
is committed to; `lapsed` marks that the channel left the sending set during its attempt (R59, R62);
`cs` is the carrier-sense input; `copy` holds the bytes of the copy in SENDING that have not been
echoed, the first of them on TXD (R65). -/
structure Chan where
  state        : ChanState
  errors       : Nat
  access       : AccessState
  attempts     : Nat
  committed    : Option Nat
  lapsed       : Bool
  recv         : RecvState
  cs           : Bool
  copy         : List Byte
  gapTimer     : Timer
  backoffTimer : Timer
  echoTimer    : Timer
  jabberTimer  : Timer
  deriving DecidableEq, Repr

/-- R77, after either reset. The level of CS is the environment's (log 5). -/
def Chan.reset : Chan :=
  { state := .off, errors := 0, access := .idle, attempts := 0, committed := none, lapsed := false,
    recv := .off, cs := false, copy := [], gapTimer := none, backoffTimer := none,
    echoTimer := none, jabberTimer := none }

/-- A send-list entry (before R57): its kind, the ID that keys it, the net N of a REPORT (0 for a
PRESENCE) and the status of its copy on each channel. `serial` is the model's own name for it
(log 14). -/
structure Entry where
  serial  : Nat
  kind    : FrameKind
  id      : IntervalId
  net     : Int
  statusL : CopyStatus
  statusH : CopyStatus
  deriving DecidableEq, Repr

/-- A key of the duplicate filter (R73). -/
structure FilterKey where
  station : Nat
  kind    : FrameKind
  id      : IntervalId
  deriving DecidableEq, Repr

/-- The Line Controller (R77). `filter` holds the accepted keys, oldest first. -/
structure Line where
  l          : Chan
  h          : Chan
  sendList   : List Entry
  outcome    : ReportOutcome
  barred     : Bool
  filter     : List FilterKey
  nextSerial : Nat
  deriving DecidableEq, Repr

/-- R77, after either reset. -/
def Line.reset : Line :=
  { l := Chan.reset, h := Chan.reset, sendList := [], outcome := .noReport, barred := false,
    filter := [], nextSerial := 0 }

/-! ## Settlement Unit -/

/-- A filled closing slot (R78, R84): the peer's N and its offset o. -/
structure ClosingSlot where
  net    : Int
  offset : Int
  deriving DecidableEq, Repr

/-- A filled early slot (R78, R85): N, the captured elapsed count and the sender delay. -/
structure EarlySlot where
  net     : Int
  elapsed : Nat
  delay   : Nat
  deriving DecidableEq, Repr

/-- An entry of the peer view (R78), keyed by the station number; before acceptance it has no key. -/
structure PeerEntry where
  station     : Option Nat
  state       : PeerState
  lastId      : Option IntervalId
  lastChannel : Option Channel
  missed      : Nat
  counted     : Bool
  closing     : Option ClosingSlot
  early       : Option EarlySlot
  deriving DecidableEq, Repr

/-- An entry before acceptance (R104): ABSENT and cleared, with no key (R78, log 11). -/
def PeerEntry.reset : PeerEntry :=
  { station := none, state := .absent, lastId := none, lastChannel := none, missed := 0,
    counted := false, closing := none, early := none }

/-- A closing record (R89): the figures of a closed interval. -/
structure Figures where
  id         : IntervalId
  length     : Nat
  trim       : Int
  impQuanta  : Nat
  expQuanta  : Nat
  net        : Int
  saturated  : Bool
  band       : Band
  held       : Bool
  fault      : Bool
  curtailed  : Bool
  cutoff     : Bool
  short      : Bool
  deriving DecidableEq, Repr

/-- The last settlement summary (R97, R98). -/
structure Summary where
  m         : Nat
  x         : Nat
  exporters : Nat
  valid     : Bool
  deriving DecidableEq, Repr

/-- The Settlement Unit (R104). -/
structure Settlement where
  peers      : List PeerEntry
  closing    : Option Figures
  misaligned : Bool
  streak     : Nat
  summary    : Summary
  deriving DecidableEq, Repr

/-- R104, after either reset: fifteen entries, ABSENT and cleared. -/
def Settlement.reset : Settlement :=
  { peers := List.replicate 15 PeerEntry.reset, closing := none, misaligned := false, streak := 0,
    summary := ⟨0, 0, 0, false⟩ }

/-! ## Export Limiter -/

/-- The Export Limiter (R123), less its wired mask, which stands in the accepted configuration.
`shed` is the shed stack, bottom first. -/
structure Limiter where
  effectiveCap  : Option Nat
  pendingCap    : Option Nat
  latch         : BitVec 4
  shed          : List (Fin 4)
  overCount     : Nat
  underCount    : Nat
  holdOff       : Nat
  settling      : Bool
  level         : Bool
  runCount      : Nat
  cutoffLatch   : Bool
  curtailedSeen : Bool
  cutoffSeen    : Bool
  deriving DecidableEq, Repr

/-- R123, after either reset. -/
def Limiter.reset : Limiter :=
  { effectiveCap := none, pendingCap := none, latch := 0, shed := [], overCount := 0,
    underCount := 0, holdOff := 0, settling := false, level := false, runCount := 0,
    cutoffLatch := false, curtailedSeen := false, cutoffSeen := false }

/-! ## Record Store -/

/-- An interval record (R124). The reserved bytes are always 0 and are written where the record is
laid out (R176). -/
structure Record where
  firstId    : IntervalId
  lastId     : IntervalId
  band       : Band
  flags      : BitVec 16
  mergeCount : Nat
  heard      : BitVec 16
  expected   : Nat
  trim       : Int
  impQuanta  : Nat
  expQuanta  : Nat
  share      : Nat
  m          : Nat
  x          : Nat
  deriving DecidableEq, Repr

/-- A page: its state in the page table and the records of its slots 0, 1, ... (R126, R127). -/
structure Page where
  state   : PageState
  records : List Record
  deriving DecidableEq, Repr

/-- The Record Store (R142): sixteen pages, the write position and the held list. -/
structure Store where
  pages     : List Page
  writePage : Nat
  writeSlot : Nat
  held      : List Record
  deriving DecidableEq, Repr

/-- R142, after power-on reset. -/
def Store.reset : Store :=
  { pages := List.replicate 16 ⟨.empty, []⟩, writePage := 0, writeSlot := 0, held := [] }

/-! ## Supply Monitor -/

/-- The Supply Monitor (R159). `pfw` is the PFW input as last seen; `resetHeld` says that RESETN is held
low or a power-on reset is in progress (R143). -/
structure Supply where
  op             : OpState
  ret            : OpState
  release        : Timer
  pfw            : Bool
  retentionValid : Bool
  retainedQ      : Option Nat
  resetHeld      : Bool
  deriving DecidableEq, Repr

/-- R159, after power-on reset with PFW inactive (log 5). -/
def Supply.reset : Supply :=
  { op := .start, ret := .start, release := none, pfw := false, retentionValid := false,
    retainedQ := none, resetHeld := false }

/-! ## Alert Unit and readout port -/

/-- The Alert Unit (R173): a latch and a mask bit for each cause, bit (code - 1), and the cutoff
re-arm state. -/
structure Alerts where
  latches : BitVec 9
  mask    : BitVec 9
  rearm   : RearmState
  deriving DecidableEq, Repr

/-- R173, after either reset: no latch, RECORD masked only, armed. -/
def Alerts.reset : Alerts :=
  { latches := 0, mask := 0x100#9, rearm := .armed }

/-- The readout port (before R160): the transaction state, the command and argument bytes taken, the
response, its result code first, whether the port serves the transaction in progress or, while it is
idle, the next one (R161), and the CSN input as last seen, on which MISO depends (R160). -/
structure Port where
  txn      : TxnState
  taken    : List Byte
  response : Option (List Byte)
  serving  : Bool
  csnLow   : Bool
  deriving DecidableEq, Repr

/-- R173, after either reset with CSN high at its end (log 5). -/
def Port.reset : Port :=
  { txn := .idle, taken := [], response := none, serving := true, csnLow := false }

/-! ## The part -/

/-- The whole state of the part, with the queue of commands that wait (`pending`) and the number of
backoff draws made so far (`draws`), both the model's own. -/
structure State where
  pending : List Instr
  draws   : Nat
  config  : Option Setup
  supply  : Supply
  sp      : SamplePort
  ne      : NettingEngine
  it      : IntervalTimer
  rb      : RegisterBank
  line    : Line
  su      : Settlement
  el      : Limiter
  store   : Store
  alerts  : Alerts
  port    : Port
  deriving DecidableEq, Repr

/-- The part right after a power-on reset at whose end PFW is inactive and CSN high: START, without a
configuration (R143, R144). -/
def State.reset : State :=
  { pending := [], draws := 0, config := none, supply := Supply.reset, sp := SamplePort.reset,
    ne := NettingEngine.reset, it := IntervalTimer.reset, rb := RegisterBank.reset,
    line := Line.reset, su := Settlement.reset, el := Limiter.reset, store := Store.reset,
    alerts := Alerts.reset, port := Port.reset }

/-- Why the part would stop with a fault: never. The manual gives it no fault that stops it; errors
are results, record flags and alert causes (R100, R163, R167). -/
inductive Fault where
  deriving DecidableEq, Repr

/-- Why a command would be refused a meaning. -/
inductive Refusal where
  /-- Raised by an arm of `exec` whose command has no meaning yet; safe. No arm raises it. -/
  | notModelled (mnemonic : String)
  deriving DecidableEq, Repr

end Sys2Proof.Machine
end

