-- ==== Sys2Proof/Machine/Formats.lean ====
section
/-! DEFINITION. Code values, check values and layouts shared by the links (R2, R56, R174 to R176,
R178). -/

namespace Sys2Proof.Machine

/-! ## Check values -/

/-- One bit of a CRC without reflection, most significant bit first. -/
def crcShift {w : Nat} (poly reg : BitVec w) : BitVec w :=
  if reg.msb then (reg <<< 1) ^^^ poly else reg <<< 1

/-- `n` bits of a CRC. -/
def crcBits {w : Nat} (poly : BitVec w) : Nat → BitVec w → BitVec w
  | 0, reg => reg
  | n + 1, reg => crcBits poly n (crcShift poly reg)

/-- One byte of a CRC, taken most significant bit first. -/
def crcByte {w : Nat} (poly reg : BitVec w) (b : Byte) : BitVec w :=
  crcBits poly 8 (reg ^^^ (b.setWidth w <<< (w - 8)))

/-- The CRC-8 of a sample-set frame: polynomial 0x2F, initial value 0x00 (R2). -/
def crc8 (bs : List Byte) : BitVec 8 :=
  bs.foldl (crcByte 0x2F#8) 0x00#8

/-- The CRC-16 of a group-line frame: polynomial 0x2D47, initial value 0xFFFF (R56). -/
def crc16 (bs : List Byte) : BitVec 16 :=
  bs.foldl (crcByte 0x2D47#16) 0xFFFF#16

/-! ## Code values -/

/-- R178. -/
def resultByte : ResultCode → Byte
  | .ok => 0xA0#8
  | .okTotalsKept => 0xA1#8
  | .refusedState => 0xA2#8
  | .badArg => 0xA3#8
  | .badConfig => 0xA4#8
  | .stillActive => 0xA5#8
  | .nothing => 0xA6#8
  | .empty => 0xA7#8
  | .unknownCommand => 0xA8#8

/-- R178: 0 START, 1 RUN, 2 RESYNC, 3 HOLD. -/
def opCode : OpState → Nat
  | .start => 0
  | .run => 1
  | .resync => 2
  | .hold => 3

/-- R178: 0 IDLE, 1 RUNNING, 2 LOST. -/
def portCode : PortState → Nat
  | .idle => 0
  | .running => 1
  | .lost => 2

/-- R178: 0 OFF, 1 GOOD, 2 DEGRADED, 3 FAULT. -/
def chanCode : ChanState → Nat
  | .off => 0
  | .good => 1
  | .degraded => 2
  | .fault => 3

/-- R178: 0 IDLE, 1 DEFER, 2 BACKOFF, 3 SENDING. -/
def accessCode : AccessState → Nat
  | .idle => 0
  | .defer => 1
  | .backoff => 2
  | .sending => 3

/-- R178: 0 none, 1 pending, 2 SENT, 3 NOT_SENT. -/
def outcomeCode : ReportOutcome → Nat
  | .noReport => 0
  | .pending => 1
  | .sent => 2
  | .notSent => 3

/-- R178: 0 EMPTY, 1 FILLING, 2 SEALED. -/
def pageCode : PageState → Nat
  | .empty => 0
  | .filling => 1
  | .sealed => 2

/-- R178: 0 ABSENT, 1 PRESENT, 2 SILENT. -/
def peerCode : PeerState → Nat
  | .absent => 0
  | .present => 1
  | .silent => 2

/-- R175, R178: 1 REPORT, 2 PRESENCE. -/
def kindCode : FrameKind → Nat
  | .report => 1
  | .presence => 2

/-- R178: 0 PENDING, 1 SENT, 2 DROPPED. -/
def statusCode : CopyStatus → Nat
  | .pending => 0
  | .sent => 1
  | .dropped => 2

/-- R178: 0 armed, 1 waiting. -/
def rearmCode : RearmState → Nat
  | .armed => 0
  | .waiting => 1

/-- The band code: 0 to 3, or 7 for unbanded (R124, R178). -/
def bandCode : Band → Nat
  | .b0 => 0
  | .b1 => 1
  | .b2 => 2
  | .b3 => 3
  | .unbanded => 7

/-- The band a calendar point's band byte names; 0 to 3 pass the check of R145. -/
def bandOf (n : Nat) : Band :=
  match n with
  | 0 => .b0
  | 1 => .b1
  | 2 => .b2
  | _ => .b3

/-- R178: 0 none, 1 L, 2 H. -/
def lastChannelCode : Option Channel → Nat
  | none => 0
  | some .l => 1
  | some .h => 2

/-- A flag as 0 or 1 (R178). -/
def flagCode (b : Bool) : Nat :=
  if b then 1 else 0

/-! ## Layouts -/

/-- An interval ID in 4 bytes: the day, then the interval-of-day (R174). -/
def idBytes (i : IntervalId) : List Byte :=
  beBytes 2 i.day ++ beBytes 2 i.iod

/-- An optional interval ID, absent as 0 (R174). -/
def optIdBytes : Option IntervalId → List Byte
  | some i => idBytes i
  | none => beBytes 4 0

/-- An interval record in 40 bytes (R176); the two reserved bytes are 0. -/
def recordBytes (r : Record) : List Byte :=
  idBytes r.firstId ++ idBytes r.lastId ++ beBytes 1 (bandCode r.band) ++ beBytes 2 r.flags.toNat
    ++ beBytes 1 r.mergeCount ++ beBytes 2 r.heard.toNat ++ beBytes 1 r.expected ++ beInt 1 r.trim
    ++ beBytes 4 r.impQuanta ++ beBytes 4 r.expQuanta ++ beBytes 4 r.share ++ beBytes 5 r.m
    ++ beBytes 5 r.x ++ beBytes 2 0

/-- The first byte of a group-line frame: the kind in bits 7 to 4, the station in bits 3 to 0
(R175). -/
def kindStation (k : FrameKind) (station : Nat) : List Byte :=
  beBytes 1 (kindCode k * 16 + station)

/-- A frame with its CRC-16 over every byte before it, most significant byte first (R56). -/
def sealFrame (body : List Byte) : List Byte :=
  body ++ beBytes 2 (crc16 body).toNat

/-- A REPORT (R54, R175). -/
def reportFrame (c : Setup) (id : IntervalId) (net : Int) (delay : Nat) : List Byte :=
  sealFrame (kindStation .report c.station ++ beBytes 1 c.group ++ idBytes id ++ beInt 4 net
    ++ beBytes 1 c.lengthCode ++ beBytes 2 delay)

/-- A PRESENCE (R55, R175): the state in bits 7 to 4 of the state byte, 1 for RUN and 2 for RESYNC,
and the length code in bits 2 to 0. -/
def presenceFrame (c : Setup) (op : OpState) (id : IntervalId) (blocks : Nat) : List Byte :=
  sealFrame (kindStation .presence c.station ++ beBytes 1 c.group
    ++ beBytes 1 (opCode op * 16 + c.lengthCode) ++ idBytes id ++ beBytes 2 blocks)

end Sys2Proof.Machine
end

