-- ==== Sys2Proof/Machine/Operands.lean ====
section
/-! DEFINITION. The operand forms: the sample-set frame (R1, R175), the group-line frame as received
(R71, R175), the configuration block (R145, R177) and the arguments of the host's commands (R178). -/

namespace Sys2Proof.Machine

/-! ## Interval lengths -/

/-- Minutes of a length code (R32). -/
def minutesOf (code : Nat) : Nat :=
  match code with
  | 0 => 1
  | 1 => 5
  | 2 => 10
  | 3 => 15
  | 4 => 30
  | _ => 60

/-- L, the nominal interval length in sets: minutes × 192,000 (R32). -/
def nominalLength (code : Nat) : Nat :=
  minutesOf code * 192000

/-- D, the intervals per day (R32). -/
def perDay (code : Nat) : Nat :=
  1440 / minutesOf code

/-- B, the full blocks per interval: minutes × 3000 (R32, R97). -/
def fullBlocks (code : Nat) : Nat :=
  minutesOf code * 3000

/-! ## The sample-set frame -/

/-- The six samples of a sample-set frame. -/
structure Samples where
  v1 : Int
  i1 : Int
  v2 : Int
  i2 : Int
  v3 : Int
  i3 : Int
  deriving DecidableEq, Repr

/-- The frame is valid: fourteen whole bytes, no partial byte, and the CRC-8 over the first thirteen
equals the fourteenth (R1, R2). -/
def sampleFrameValid (bytes : List Byte) (partialBits : Nat) : Bool :=
  bytes.length == 14 && partialBits == 0 && crc8 (bytes.take 13) == bytes.getD 13 0

/-- The sequence number (R175). -/
def sampleSequence (bytes : List Byte) : BitVec 8 :=
  bytes.getD 0 0

/-- The samples, each a signed 16-bit value (R175). -/
def sampleValues (bytes : List Byte) : Samples :=
  { v1 := signedOf (bytesAt bytes 1 2), i1 := signedOf (bytesAt bytes 3 2),
    v2 := signedOf (bytesAt bytes 5 2), i2 := signedOf (bytesAt bytes 7 2),
    v3 := signedOf (bytesAt bytes 9 2), i3 := signedOf (bytesAt bytes 11 2) }

/-! ## The group-line frame -/

/-- What a frame carries beside its sender and its ID: a REPORT its N and sender delay, a PRESENCE
the value of its state field and its elapsed count in blocks (R54, R55). -/
inductive FrameBody where
  | report (net : Int) (delay : Nat)
  | presence (stateField : Nat) (blocks : Nat)
  deriving DecidableEq, Repr

/-- A group-line frame as received (R175). -/
structure GroupFrame where
  station    : Nat
  group      : Nat
  id         : IntervalId
  lengthCode : Nat
  body       : FrameBody
  deriving DecidableEq, Repr

/-- The kind of a received frame. -/
def frameKind (f : GroupFrame) : FrameKind :=
  match f.body with
  | .report _ _ => .report
  | .presence _ _ => .presence

/-- The CRC-16 check of a received frame: the remainder over every byte before the last two equals
the value those two carry (R56). -/
def frameCheck (bytes : List Byte) : Bool :=
  (crc16 (bytes.take (bytes.length - 2))).toNat == fieldAt bytes (bytes.length - 2) 2

/-- The fields of a received frame by its kind (R175); reserved bits are ignored (R174). -/
def readFrame (bytes : List Byte) : GroupFrame :=
  if fieldAt bytes 0 1 / 16 = 1 then
    { station := fieldAt bytes 0 1 % 16, group := fieldAt bytes 1 1,
      id := ⟨fieldAt bytes 2 2, fieldAt bytes 4 2⟩, lengthCode := fieldAt bytes 10 1 % 8,
      body := .report (signedOf (bytesAt bytes 6 4)) (fieldAt bytes 11 2) }
  else
    { station := fieldAt bytes 0 1 % 16, group := fieldAt bytes 1 1,
      id := ⟨fieldAt bytes 3 2, fieldAt bytes 5 2⟩, lengthCode := fieldAt bytes 2 1 % 8,
      body := .presence (fieldAt bytes 2 1 / 16) (fieldAt bytes 7 2) }

/-- The MALFORMED row of R71: a PRESENCE state field that names neither RUN nor RESYNC, a length code
of 6 or 7, or an interval-of-day at or above the intervals per day of the frame's own length code. -/
def frameMalformed (f : GroupFrame) : Bool :=
  (match f.body with
    | .presence st _ => st != 1 && st != 2
    | .report _ _ => false)
  || decide (6 ≤ f.lengthCode) || decide (perDay f.lengthCode ≤ f.id.iod)

/-! ## The configuration block -/

/-- A day position (R145, index 16). -/
structure DayPosition where
  id      : IntervalId
  elapsed : Nat
  deriving DecidableEq, Repr

/-- The calendar points a block carries: the first `count` of eight (R177). -/
def calendarPoints (b : List Byte) : Nat → Nat → List (Nat × Nat)
  | 0, _ => []
  | n + 1, off => (fieldAt b off 2, fieldAt b (off + 2) 1) :: calendarPoints b n (off + 3)

/-- The points' intervals-of-day are in strictly ascending order, each below D, each band 0 to 3
(R46, R145 index 10). -/
def calendarPasses (d : Nat) : List (Nat × Nat) → Bool
  | [] => true
  | (i, b) :: rest =>
    decide (i < d) && decide (b ≤ 3)
      && (match rest with
          | [] => true
          | (j, _) :: _ => decide (i < j))
      && calendarPasses d rest

/-- The field checks of R145 in index order, each with the index BAD_CONFIG returns; offsets as in
R177. `retained` is the retained Q when the retention-valid flag is set. -/
def configChecks (b : List Byte) (retained : Option Nat) : List (Nat × Bool) :=
  let code := fieldAt b 15 1
  let d := perDay code
  let q := fieldAt b 10 5
  [ (1, decide (fieldAt b 0 1 ≤ 15)),
    (2, decide (1 ≤ fieldAt b 1 1)),
    (3, decide (1 ≤ fieldAt b 2 1) && decide (fieldAt b 2 1 ≤ 7)),
    (4, decide (16384 ≤ fieldAt b 3 2) && decide (fieldAt b 3 2 ≤ 49151)),
    (5, decide (16384 ≤ fieldAt b 5 2) && decide (fieldAt b 5 2 ≤ 49151)),
    (6, decide (16384 ≤ fieldAt b 7 2) && decide (fieldAt b 7 2 ≤ 49151)),
    (7, decide (fieldAt b 9 1 ≤ 1)),
    (8, decide (2 ^ 24 ≤ q) && decide (q ≤ 2 ^ 40 - 1)
      && (match retained with
          | some kept => q == kept
          | none => true)),
    (9, decide (code ≤ 5)),
    (10, decide (fieldAt b 16 1 ≤ 8) && calendarPasses d (calendarPoints b (fieldAt b 16 1) 17)),
    (11, decide (fieldAt b 41 5 ≤ fieldAt b 46 5)),
    (12, decide (10 ≤ fieldAt b 51 2) && decide (fieldAt b 51 2 ≤ 1000)),
    (13, decide (50 ≤ fieldAt b 53 2) && decide (fieldAt b 53 2 ≤ 30000)),
    (14, decide (fieldAt b 55 1 % 4 ≠ 0)),
    (15, decide (1 ≤ fieldAt b 56 1)),
    (16, decide (fieldAt b 57 1 = 0)
      || (decide (fieldAt b 57 1 = 1) && decide (fieldAt b 60 2 < d)
          && decide (fieldAt b 62 4 < nominalLength code))) ]

/-- The index of the first field that fails, if one does (R145). -/
def configFailure (b : List Byte) (retained : Option Nat) : Option Nat :=
  ((configChecks b retained).find? fun p => !p.2).map (·.1)

/-- W as clamped at acceptance into 3200 to L/2 (R146). -/
def clampWindow (code w : Nat) : Nat :=
  if w < 3200 then 3200 else if nominalLength code / 2 < w then nominalLength code / 2 else w

/-- The configuration a block that passed its checks gives the part (R146, R177). -/
def configSetup (b : List Byte) : Setup :=
  let code := fieldAt b 15 1
  let mask := fieldAt b 2 1
  { station := fieldAt b 0 1, group := fieldAt b 1 1,
    phase1 := mask.testBit 0, phase2 := mask.testBit 1, phase3 := mask.testBit 2,
    gain1 := fieldAt b 3 2, gain2 := fieldAt b 5 2, gain3 := fieldAt b 7 2,
    mode := if fieldAt b 9 1 = 0 then .phaseSum else .perPhase,
    quantum := fieldAt b 10 5, lengthCode := code,
    calendar := (calendarPoints b (fieldAt b 16 1) 17).map fun p => ⟨p.1, bandOf p.2⟩,
    baseCap := fieldAt b 41 5, ceilingCap := fieldAt b 46 5, holdOffLength := fieldAt b 51 2,
    restoreCount := fieldAt b 53 2, enableL := (fieldAt b 55 1).testBit 0,
    enableH := (fieldAt b 55 1).testBit 1, presence := fieldAt b 56 1,
    window := clampWindow code (fieldAt b 66 4), creep := fieldAt b 70 4,
    wired := BitVec.ofNat 4 (fieldAt b 74 1) }

/-- The day position the block carries, if it carries one (R177). -/
def configDayPosition (b : List Byte) : Option DayPosition :=
  if fieldAt b 57 1 = 1 then some ⟨⟨fieldAt b 58 2, fieldAt b 60 2⟩, fieldAt b 62 4⟩ else none

/-- The opening totals the block carries, if it carries them (R177). -/
def configOpening (b : List Byte) : Option Totals :=
  if fieldAt b 75 1 = 0 then none
  else
    some { b0 := ⟨fieldAt b 76 5, fieldAt b 81 5⟩, b1 := ⟨fieldAt b 86 5, fieldAt b 91 5⟩,
           b2 := ⟨fieldAt b 96 5, fieldAt b 101 5⟩, b3 := ⟨fieldAt b 106 5, fieldAt b 111 5⟩,
           unbanded := ⟨fieldAt b 116 5, fieldAt b 121 5⟩ }

/-- A calendar point in 3 bytes (R177). -/
def pointBytes (p : SwitchPoint) : List Byte :=
  beBytes 2 p.iod ++ beBytes 1 (bandCode p.band)

/-- The layout of the configuration block (R177): the 126 bytes that carry a configuration, a day position
and opening totals. Unused calendar points, an absent day position and absent totals are 0. -/
def configBlock (c : Setup) (pos : Option DayPosition) (opening : Option Totals) : List Byte :=
  let p := pos.getD ⟨⟨0, 0⟩, 0⟩
  let t := opening.getD ⟨⟨0, 0⟩, ⟨0, 0⟩, ⟨0, 0⟩, ⟨0, 0⟩, ⟨0, 0⟩⟩
  let pair (x : Pair) : List Byte := beBytes 5 x.imp ++ beBytes 5 x.exp
  let head :=
    beBytes 1 c.station ++ beBytes 1 c.group
      ++ beBytes 1 (flagCode c.phase1 + 2 * flagCode c.phase2 + 4 * flagCode c.phase3)
      ++ beBytes 2 c.gain1 ++ beBytes 2 c.gain2 ++ beBytes 2 c.gain3
      ++ beBytes 1 (if c.mode = .phaseSum then 0 else 1) ++ beBytes 5 c.quantum
      ++ beBytes 1 c.lengthCode ++ beBytes 1 c.calendar.length
  let points := (c.calendar.flatMap pointBytes ++ beBytes 24 0).take 24
  let tail :=
    beBytes 5 c.baseCap ++ beBytes 5 c.ceilingCap ++ beBytes 2 c.holdOffLength
      ++ beBytes 2 c.restoreCount ++ beBytes 1 (flagCode c.enableL + 2 * flagCode c.enableH)
      ++ beBytes 1 c.presence ++ beBytes 1 (flagCode pos.isSome) ++ beBytes 2 p.id.day
      ++ beBytes 2 p.id.iod ++ beBytes 4 p.elapsed ++ beBytes 4 c.window ++ beBytes 4 c.creep
      ++ beBytes 1 c.wired.toNat ++ beBytes 1 (flagCode opening.isSome)
      ++ pair t.b0 ++ pair t.b1 ++ pair t.b2 ++ pair t.b3 ++ pair t.unbanded
  head ++ points ++ tail

/-! ## Arguments of the host's commands -/

/-- The mode of WRITE LINES applied to the old latch (R112); `none` where the byte names no mode. -/
def latchMode (mode : Byte) (old value : BitVec 4) : Option (BitVec 4) :=
  match mode.toNat with
  | 0 => some value
  | 1 => some (old ||| value)
  | 2 => some (old &&& value)
  | _ => none

/-- The channel an ENABLE CHANNEL argument names (R178). -/
def channelOf (b : Byte) : Option Channel :=
  match b.toNat with
  | 0 => some .l
  | 1 => some .h
  | _ => none

/-- The action an ENABLE CHANNEL argument names: `true` is ENABLE (R178). -/
def actionOf (b : Byte) : Option Bool :=
  match b.toNat with
  | 0 => some false
  | 1 => some true
  | _ => none

/-- The cause a cause code names (R178). -/
def causeOf (b : Byte) : Option Cause :=
  match b.toNat with
  | 1 => some .supply
  | 2 => some .cutoff
  | 3 => some .duplicateStation
  | 4 => some .storeBlocked
  | 5 => some .exportUnshed
  | 6 => some .channel
  | 7 => some .alignment
  | 8 => some .sample
  | 9 => some .record
  | _ => none

end Sys2Proof.Machine
end

