-- ==== Sys2Proof/Machine/Flags.lean ====
section
/-! DEFINITION. Every flag computation: the alert latches, their mask and ALERTN (R167 to R172), and
the flags of an interval record (R100, R176). -/

namespace Sys2Proof.Machine

/-! ## Alerts -/

/-- The cause code, 1 for SUPPLY to 9 for RECORD (R178). -/
def causeCode : Cause → Nat
  | .supply => 1
  | .cutoff => 2
  | .duplicateStation => 3
  | .storeBlocked => 4
  | .exportUnshed => 5
  | .channel => 6
  | .alignment => 7
  | .sample => 8
  | .record => 9

/-- A cause's bit among the latches and in the mask: bit (code - 1) (R178). -/
def causeBit (c : Cause) : BitVec 9 :=
  1#9 <<< (causeCode c - 1)

/-- The nine causes in priority order (R167). -/
def causesInOrder : List Cause :=
  [.supply, .cutoff, .duplicateStation, .storeBlocked, .exportUnshed, .channel, .alignment,
    .sample, .record]

/-- The latch of a cause is set. -/
def latched (c : Cause) (a : Alerts) : Bool :=
  a.latches &&& causeBit c != 0

/-- A block raises a cause other than CUTOFF: its latch is set, masked or not (R167). -/
def raise (c : Cause) (a : Alerts) : Alerts :=
  { a with latches := a.latches ||| causeBit c }

/-- A cause is raised where a condition holds. -/
def raiseIf (b : Bool) (c : Cause) (a : Alerts) : Alerts :=
  if b then raise c a else a

/-- The Export Limiter raises CUTOFF: it latches only while the re-arm state is armed, which then
becomes waiting (R168). -/
def raiseCutoff (a : Alerts) : Alerts :=
  match a.rearm with
  | .armed => { raise .cutoff a with rearm := .waiting }
  | .waiting => a

/-- The filtered CUTOFF level changes to inactive: the re-arm state becomes armed (R168). -/
def rearmCutoff (a : Alerts) : Alerts :=
  { a with rearm := .armed }

/-- The latches that are set and unmasked; SUPPLY counts as always unmasked (R169, R170). -/
def unmaskedLatches (a : Alerts) : BitVec 9 :=
  a.latches &&& ~~~(a.mask &&& ~~~1#9)

/-- ALERTN is asserted exactly while a latched cause is unmasked (R170). -/
def alertAsserted (a : Alerts) : Bool :=
  unmaskedLatches a != 0

/-- The cause READ ALERT returns: the first in priority order that is latched and unmasked (R171). -/
def topCause (a : Alerts) : Option Cause :=
  causesInOrder.find? fun c => unmaskedLatches a &&& causeBit c != 0

/-- ACK ALERT clears one latch (R172). -/
def clearLatch (c : Cause) (a : Alerts) : Alerts :=
  { a with latches := a.latches &&& ~~~causeBit c }

/-! ## Record flags -/

/-- The flags of a record that do not come with the closed interval's figures: what closed it and how
it was settled (R100). -/
structure Marks where
  supply     : Bool
  unaligned  : Bool
  solo       : Bool
  incomplete : Bool
  txFailed   : Bool
  listenOnly : Bool
  deriving DecidableEq, Repr

/-- A flag at its bit of the 16-bit field (R176). -/
def flagBit (n : Nat) (b : Bool) : BitVec 16 :=
  if b then 1#16 <<< n else 0#16

/-- The MERGED flag (R176). -/
def mergedFlag : BitVec 16 := flagBit 5 true

/-- The SATURATED flag (R176). -/
def saturatedFlag : BitVec 16 := flagBit 11 true

/-- The flags of a record as built (R100, R176): SHORT 0, SUPPLY 1, UNALIGNED 2, SOLO 3, PARTIAL 4,
HELD_SAMPLES 6, SAMPLE_FAULT 7, CURTAILED 8, CUTOFF 9, TRIMMED 10, SATURATED 11, TX_FAILED 12,
LISTEN_ONLY 13; MERGED 5 is never raised as built. -/
def recordFlags (f : Figures) (k : Marks) : BitVec 16 :=
  flagBit 0 f.short ||| flagBit 1 k.supply ||| flagBit 2 k.unaligned ||| flagBit 3 k.solo
    ||| flagBit 4 k.incomplete ||| flagBit 6 f.held ||| flagBit 7 f.fault
    ||| flagBit 8 f.curtailed ||| flagBit 9 f.cutoff ||| flagBit 10 (decide (f.trim ≠ 0))
    ||| flagBit 11 f.saturated ||| flagBit 12 k.txFailed ||| flagBit 13 k.listenOnly

end Sys2Proof.Machine
end

