-- ==== Sys2Proof/Machine/Ops.lean ====
section
/-! DEFINITION. The named operations that several blocks share: interval IDs and bands, the response
of the readout port, access to the two channels, and the record store's writing. -/

namespace Sys2Proof.Machine

/-! ## Operating state -/

/-- RUN and RESYNC: sets are counted, the channels work and the lines can be active. -/
def opLive (op : OpState) : Bool :=
  match op with
  | .run => true
  | .resync => true
  | .start => false
  | .hold => false

/-- The part is in RUN or RESYNC. -/
def isLive (s : State) : Bool :=
  opLive s.supply.op

/-! ## Interval IDs and bands -/

/-- The successor of an interval ID (R33). -/
def succId (d : Nat) (i : IntervalId) : IntervalId :=
  if i.iod + 1 < d then ⟨i.day, i.iod + 1⟩ else ⟨(i.day + 1) % 65536, 0⟩

/-- The predecessor of an interval ID (before R82). -/
def predId (d : Nat) (i : IntervalId) : IntervalId :=
  if 0 < i.iod then ⟨i.day, i.iod - 1⟩ else ⟨(i.day + 65535) % 65536, d - 1⟩

/-- The band of an interval-of-day (R46): that of the last switch point at or before it, else that of
the last switch point of the list, else band 0. -/
def bandFor (cal : List SwitchPoint) (iod : Nat) : Band :=
  match (cal.filter fun p => decide (p.iod ≤ iod)).getLast? with
  | some p => p.band
  | none =>
    match cal.getLast? with
    | some p => p.band
    | none => .b0

/-- The totals of one band (R50). -/
def totalsOf (t : Totals) : Band → Pair
  | .b0 => t.b0
  | .b1 => t.b1
  | .b2 => t.b2
  | .b3 => t.b3
  | .unbanded => t.unbanded

/-- The totals with those of one band replaced. -/
def setTotals (t : Totals) (p : Pair) : Band → Totals
  | .b0 => { t with b0 := p }
  | .b1 => { t with b1 := p }
  | .b2 => { t with b2 := p }
  | .b3 => { t with b3 := p }
  | .unbanded => { t with unbanded := p }

/-! ## The readout port -/

/-- A command has acted: the port holds its bytes and responds with a result code and data (R160). -/
def respond (i : Instr) (r : ResultCode) (data : List Byte) (s : State) : State :=
  { s with
    port := { txn := .responding, taken := (mosi i).getD [], response := some (resultByte r :: data),
              serving := true, csnLow := true } }

/-- CSN has fallen (R160). -/
def csnFalls (s : State) : State :=
  { s with port := { s.port with csnLow := true } }

/-- A row of the host reaches the part: a transaction that the port does not serve has no effect but for
the level of CSN (R161). -/
def served (f : State → State) (s : State) : State :=
  if s.port.serving then f s else csnFalls s

/-! ## The two channels -/

/-- A channel of the line. -/
def chanOf (l : Line) : Channel → Chan
  | .l => l.l
  | .h => l.h

/-- The line with one channel replaced. -/
def setChan (l : Line) (ch : Channel) (c : Chan) : Line :=
  match ch with
  | .l => { l with l := c }
  | .h => { l with h := c }

/-- The arrival capture of a channel (R41). -/
def captureOf (it : IntervalTimer) : Channel → Option Capture
  | .l => it.captureL
  | .h => it.captureH

/-! ## The Record Store -/

/-- The page at the write position. -/
def writePageOf (t : Store) : Option Page :=
  t.pages[t.writePage]?

/-- The store is blocked exactly while the page at the write position is SEALED (R127). -/
def storeBlocked (t : Store) : Bool :=
  match writePageOf t with
  | some p => p.state == .sealed
  | none => false

/-- A record is written to the slot at the write position of an open store (R128); the sixteenth
record seals the page and moves the write position to the next page in ring order (R129). -/
def writeRecord (r : Record) (t : Store) : Store :=
  match writePageOf t with
  | none => t
  | some p =>
    if t.writeSlot = 15 then
      { t with pages := t.pages.set t.writePage ⟨.sealed, p.records ++ [r]⟩,
               writePage := (t.writePage + 1) % 16, writeSlot := 0 }
    else
      { t with pages := t.pages.set t.writePage ⟨.filling, p.records ++ [r]⟩,
               writeSlot := t.writeSlot + 1 }

/-- A sum of a merge, limited to the field's largest value (R132). -/
def satSum (top a b : Nat) : Nat :=
  min top (a + b)

/-- The flag of a merge sum that would exceed its field (R132). -/
def sumExceeds (top a b : Nat) : Bool :=
  decide (top < a + b)

/-- Merging an arriving record into a held entry of its band (R131, R132). -/
def mergeRecord (held new : Record) : Record :=
  let q := 2 ^ 32 - 1
  let w := 2 ^ 40 - 1
  let exceeded := sumExceeds q held.impQuanta new.impQuanta || sumExceeds q held.expQuanta new.expQuanta
    || sumExceeds q held.share new.share || sumExceeds w held.m new.m || sumExceeds w held.x new.x
  { firstId := held.firstId
    lastId := new.lastId
    band := held.band
    flags := held.flags ||| new.flags ||| mergedFlag ||| (if exceeded then saturatedFlag else 0)
    mergeCount := min 255 (held.mergeCount + 1)
    heard := held.heard &&& new.heard
    expected := max held.expected new.expected
    trim := held.trim
    impQuanta := satSum q held.impQuanta new.impQuanta
    expQuanta := satSum q held.expQuanta new.expQuanta
    share := satSum q held.share new.share
    m := satSum w held.m new.m
    x := satSum w held.x new.x }

/-- The held list takes a record: merged into the entry of its band, or appended (R130). -/
def holdRecord (r : Record) : List Record → List Record
  | [] => [r]
  | e :: rest => if e.band = r.band then mergeRecord e r :: rest else e :: holdRecord r rest

/-- The causes of a record written to a slot: RECORD, and STORE_BLOCKED where that write blocks the
store (R128, R129). -/
def writeAlerts (t : Store) (a : Alerts) : Alerts :=
  raiseIf (storeBlocked t) .storeBlocked (raise .record a)

/-- The store takes a record: into the held list while it is blocked (R130), and otherwise into the
slot at the write position, latching RECORD (R128, R129). -/
def putRecord (r : Record) (s : State) : State :=
  if storeBlocked s.store then
    { s with store := { s.store with held := holdRecord r s.store.held } }
  else
    { s with store := writeRecord r s.store,
             alerts := writeAlerts (writeRecord r s.store) s.alerts }

/-- The held entries are written in list order, each latching RECORD (R135). -/
def flushRecords : List Record → State → State
  | [], s => s
  | r :: rest, s =>
    flushRecords rest
      { s with store := writeRecord r s.store,
               alerts := writeAlerts (writeRecord r s.store) s.alerts }

/-- The record in a slot, if it holds one (R127, R137). -/
def recordAt (t : Store) (page slot : Nat) : Option Record :=
  match t.pages[page]? with
  | some p => p.records[slot]?
  | none => none

end Sys2Proof.Machine
end

