-- ==== Sys2Proof/Machine/LimiterOps.lean ====
section
/-! DEFINITION. The Export Limiter's operations: the control lines, judging a block, shedding and
restoring, the CUTOFF filter and the interval flags (R105 to R123). -/

namespace Sys2Proof.Machine

/-- A control line is active (R114): its host latch bit is 1, it is wired, it is not in the shed
stack, the cutoff latch is clear and the operating state is RUN or RESYNC. -/
def lineActive (c : Setup) (live : Bool) (e : Limiter) (k : Fin 4) : Bool :=
  live && e.latch.getLsbD k && c.wired.getLsbD k && !e.shed.contains k && !e.cutoffLatch

/-- The level of output CTLk (R114): high while line k is active; low without a configuration. -/
def ctlOutput (s : State) (k : Fin 4) : Bool :=
  match s.config with
  | some c => lineActive c (isLive s) s.el k
  | none => false

/-- The highest-numbered active line (R115). -/
def highestActive (c : Setup) (live : Bool) (e : Limiter) : Option (Fin 4) :=
  [3, 2, 1, 0].find? (lineActive c live e)

/-- A waiting pending cap becomes the effective cap (R105). -/
def takeCap (e : Limiter) : Limiter :=
  match e.pendingCap with
  | some cap => { e with effectiveCap := some cap, pendingCap := none }
  | none => e

/-- A cap is handed over and replaces one still waiting (R105). -/
def handCap (cap : Nat) (e : Limiter) : Limiter :=
  { e with pendingCap := some cap }

/-- How a block close meets the limiter once a pending cap has been taken (R107). -/
inductive Verdict where
  | settling
  | holdingOff
  | above
  | quiet
  | between
  deriving DecidableEq, Repr

/-- The gate of R107, and the comparisons of R108, R109 and R110 with the hysteresis
floor(effective cap / 8). -/
def verdict (net : Nat) (e : Limiter) : Verdict :=
  if e.settling then .settling
  else if 0 < e.holdOff then .holdingOff
  else
    match e.effectiveCap with
    | none => .between
    | some cap =>
      if cap < net then .above
      else if net ≤ cap - cap / 8 && !e.shed.isEmpty then .quiet
      else .between

/-- A judged block above the cap (R108): the third in a row sheds the highest active line. -/
def overBlock (c : Setup) (live : Bool) (e : Limiter) : Limiter :=
  if e.overCount + 1 < 3 then { e with overCount := e.overCount + 1, underCount := 0 }
  else
    match highestActive c live e with
    | some k =>
      { e with shed := e.shed ++ [k], overCount := 0, underCount := 0,
               holdOff := c.holdOffLength, curtailedSeen := true }
    | none => { e with overCount := 0, underCount := 0 }

/-- A judged block well below the cap while lines are shed (R109): as many in a row as the restore
count pop the top line. -/
def quietBlock (c : Setup) (e : Limiter) : Limiter :=
  if e.underCount + 1 < c.restoreCount then { e with underCount := e.underCount + 1, overCount := 0 }
  else
    { e with shed := e.shed.dropLast, underCount := 0, overCount := 0,
             holdOff := c.holdOffLength, settling := true }

/-- A block close that reaches the limiter, taken whole (R105, R107 to R110). -/
def judgeBlock (c : Setup) (live : Bool) (net : Nat) (e : Limiter) : Limiter :=
  match verdict net (takeCap e) with
  | .settling => { takeCap e with settling := false }
  | .holdingOff => { takeCap e with holdOff := (takeCap e).holdOff - 1 }
  | .above => overBlock c live (takeCap e)
  | .quiet => quietBlock c (takeCap e)
  | .between => { takeCap e with overCount := 0, underCount := 0 }

/-- The block close latches EXPORT_UNSHED: the third block in a row above the cap finds no line active
(R108). -/
def firesUnshed (c : Setup) (live : Bool) (net : Nat) (e : Limiter) : Bool :=
  verdict net (takeCap e) == .above && decide (2 ≤ e.overCount)
    && (highestActive c live (takeCap e)).isNone

/-- The interval flags as an interval begins (R119): raised if the shed stack is not empty, and if
the cutoff latch is set. -/
def startFlags (e : Limiter) : Limiter :=
  { e with curtailedSeen := !e.shed.isEmpty, cutoffSeen := e.cutoffLatch }

/-- The shed stack is emptied and every count is 0, the settling flag clear (R117, R121). -/
def clearCounts (e : Limiter) : Limiter :=
  { e with shed := [], overCount := 0, underCount := 0, holdOff := 0, settling := false }

/-- HOLD entry (R121). -/
def limiterHold (e : Limiter) : Limiter :=
  { clearCounts e with curtailedSeen := false, cutoffSeen := false }

/-- The sample would bring the run count to 3, so the filtered level changes (R116). -/
def levelChanges (sample : Bool) (e : Limiter) : Bool :=
  sample != e.level && decide (2 ≤ e.runCount)

/-- One sample of the CUTOFF filter (R116). -/
def filterSample (sample : Bool) (e : Limiter) : Limiter :=
  if sample = e.level then { e with runCount := 0 }
  else if e.runCount < 2 then { e with runCount := e.runCount + 1 }
  else { e with level := sample, runCount := 0 }

/-- The filtered level changes to active (R117). `counting` says that an interval is in progress. -/
def setCutoff (counting : Bool) (e : Limiter) : Limiter :=
  { clearCounts e with cutoffLatch := true, cutoffSeen := e.cutoffSeen || counting }

/-- The host latch takes a new value (R112, R113): bits outside the wired mask are 0, and the entry of
a line whose bit is cleared leaves the shed stack, the others keeping their order. -/
def writeLatch (c : Setup) (new : BitVec 4) (e : Limiter) : Limiter :=
  { e with latch := new &&& c.wired,
           shed := e.shed.filter fun k => (new &&& c.wired).getLsbD k }

end Sys2Proof.Machine
end

