-- ==== Sys2Proof/Machine/LineOps.lean ====
section
/-! DEFINITION. The Line Controller's operations: the sending set, the send list, commitment, the end
of an attempt, channel health and the duplicate filter (R52 to R77). -/

namespace Sys2Proof.Machine

/-- Two byte times: 8533 ticks (R52). -/
def twoByteTimes : Nat := 8533

/-- One byte time, ten bit times at 19,200 baud, to the nearest tick (R52). -/
def byteTicks : Nat := 4267

/-- The echo of a byte is due 2 byte times after the end of its stop bit, which is one byte time after the
byte began on TXD (R65): 12,800 ticks, exactly thirty bit times. -/
def echoTicks : Nat := byteTicks + twoByteTimes

/-- The quiet gap and a backoff slot: 4 ms of the 8.192 MHz reference clock (R63, R64). -/
def slotTicks : Nat := 32768

/-- The jabber guard: 20 ms (R69). -/
def jabberTicks : Nat := 163840

/-! ## Sending set -/

/-- A channel is in the sending set (R59): the GOOD channels if at least one is GOOD, otherwise the
DEGRADED channels. -/
def inSendingSet (l : Line) (ch : Channel) : Bool :=
  (chanOf l ch).state == .good
    || ((chanOf l ch).state == .degraded && l.l.state != .good && l.h.state != .good)

/-! ## Access -/

/-- The channel returns to IDLE: it is committed to nothing, sends nothing and times nothing. Its
attempt count is not changed. -/
def toIdle (c : Chan) : Chan :=
  { c with access := .idle, committed := none, lapsed := false, copy := [], gapTimer := none,
           backoffTimer := none, echoTimer := none, jabberTimer := none }

/-- The channel returns to IDLE with attempt count 0. -/
def toIdleFresh (c : Chan) : Chan :=
  { toIdle c with attempts := 0 }

/-- The quiet gap as DEFER is entered: timed at once if CS is inactive (R63). -/
def gapOnEntry (cs : Bool) : Timer :=
  if cs then none else some slotTicks

/-- The channel enters DEFER for its committed entry. -/
def toDefer (c : Chan) : Chan :=
  { c with access := .defer, copy := [], gapTimer := gapOnEntry c.cs, backoffTimer := none,
           echoTimer := none, jabberTimer := none }

/-- The receive state after a transmission of the channel's own, however it ended (R70). -/
def recvAfterSending (c : Chan) : Chan :=
  { c with recv := .waitQuiet }

/-- A copy in SENDING is cut: TXEN inactive, the channel IDLE, attempt count and error counter
unchanged (R61). -/
def cutChan (c : Chan) : Chan :=
  if c.access = .sending then recvAfterSending (toIdle c) else c

/-! ## The send list -/

/-- The status of an entry on a channel. -/
def statusOf (e : Entry) : Channel → CopyStatus
  | .l => e.statusL
  | .h => e.statusH

/-- An entry with its status on one channel replaced. -/
def withStatus (ch : Channel) (st : CopyStatus) (e : Entry) : Entry :=
  match ch with
  | .l => { e with statusL := st }
  | .h => { e with statusH := st }

/-- The report outcome as an entry leaves the list (R60): for a REPORT, SENT if either status is SENT
and NOT_SENT otherwise. -/
def outcomeOnLeave (o : ReportOutcome) (e : Entry) : ReportOutcome :=
  match e.kind with
  | .presence => o
  | .report => if e.statusL = .sent ∨ e.statusH = .sent then .sent else .notSent

/-- The entry's status on every channel of the sending set is SENT or DROPPED (R60). -/
def entryDone (l : Line) (e : Entry) : Bool :=
  (!inSendingSet l .l || e.statusL != .pending) && (!inSendingSet l .h || e.statusH != .pending)

/-- The entries that R60 makes leave the list leave it, and the report outcome follows. -/
def leaveEntries (l : Line) : Line :=
  if inSendingSet l .l || inSendingSet l .h then
    { l with sendList := l.sendList.filter fun e => !entryDone l e,
             outcome := (l.sendList.filter (entryDone l)).foldl outcomeOnLeave l.outcome }
  else l

/-- A channel outside the sending set (R59): in DEFER or BACKOFF it returns to IDLE, in SENDING its
attempt runs on and is marked. -/
def lapseChan (inSet : Bool) (c : Chan) : Chan :=
  if inSet then c
  else
    match c.access with
    | .idle => c
    | .defer => toIdleFresh c
    | .backoff => toIdleFresh c
    | .sending => { c with lapsed := true }

/-- Both channels under `lapseChan`. -/
def lapseChans (l : Line) : Line :=
  { l with l := lapseChan (inSendingSet l .l) l.l, h := lapseChan (inSendingSet l .h) l.h }

/-- The entry a serial names is in the list. -/
def inList (list : List Entry) (serial : Option Nat) : Bool :=
  list.any fun e => serial == some e.serial

/-- A channel in DEFER or BACKOFF whose entry has left the list returns to IDLE (R58, R63). -/
def freeChan (list : List Entry) (c : Chan) : Chan :=
  if (c.access = .defer ∨ c.access = .backoff) ∧ inList list c.committed = false then toIdleFresh c
  else c

/-- Both channels under `freeChan`. -/
def freeChans (l : Line) : Line :=
  { l with l := freeChan l.sendList l.l, h := freeChan l.sendList l.h }

/-- Commitment (R62): a channel in IDLE and in the sending set commits to the first entry PENDING for
it, sets its attempt count to 0 and enters DEFER. -/
def commitChan (may : Bool) (ch : Channel) (list : List Entry) (c : Chan) : Chan :=
  if may && c.access == .idle then
    match list.find? fun e => statusOf e ch == .pending with
    | some e => toDefer { c with committed := some e.serial, attempts := 0, lapsed := false }
    | none => c
  else c

/-- Both channels under `commitChan`; `live` is RUN or RESYNC. -/
def commitChans (live : Bool) (l : Line) : Line :=
  { l with l := commitChan (live && !l.barred && inSendingSet l .l) .l l.sendList l.l,
           h := commitChan (live && !l.barred && inSendingSet l .h) .h l.sendList l.h }

/-- What follows at once from a change of a channel state, of a status, of the list or of the barring
(R59, R60, R62). -/
def judgeLine (live : Bool) (l : Line) : Line :=
  commitChans live (freeChans (leaveEntries (lapseChans l)))

/-- The oldest entry of a kind is removed. -/
def removeOldest (k : FrameKind) : List Entry → List Entry
  | [] => []
  | e :: rest => if e.kind = k then rest else e :: removeOldest k rest

/-- Overflow (R58): the oldest PRESENCE entry is removed, or the oldest REPORT entry where the list
holds no PRESENCE; the report outcome follows R60. -/
def makeRoom (l : Line) : Line :=
  if l.sendList.length < 4 then l
  else if l.sendList.any fun e => e.kind == .presence then
    { l with sendList := removeOldest .presence l.sendList }
  else
    { l with sendList := removeOldest .report l.sendList,
             outcome := (l.sendList.take 1).foldl outcomeOnLeave l.outcome }

/-- The list already holds an entry of this kind and key ID (R57). -/
def hasKey (l : Line) (k : FrameKind) (id : IntervalId) : Bool :=
  l.sendList.any fun e => e.kind == k && e.id == id

/-- A new entry in list order: a REPORT after every REPORT and before every PRESENCE, a PRESENCE at
the end (R57). -/
def insertEntry (e : Entry) (list : List Entry) : List Entry :=
  match e.kind with
  | .report => (list.filter fun x => x.kind == .report) ++ e :: list.filter fun x => x.kind == .presence
  | .presence => list ++ [e]

/-- A new entry joins the list, room having been made (R57, R58). -/
def addEntry (k : FrameKind) (id : IntervalId) (net : Int) (l : Line) : Line :=
  let m := makeRoom l
  { m with
    sendList := insertEntry ⟨m.nextSerial, k, id, net, .pending, .pending⟩ m.sendList
    nextSerial := m.nextSerial + 1 }

/-- A PRESENCE is handed over (R43, R57). A channel that an overflow frees commits after the joining (R58, R62;
DESIGN CHOICE, log 27). -/
def handPresence (live : Bool) (id : IntervalId) (l : Line) : Line :=
  if l.barred || hasKey l .presence id then l
  else judgeLine live (addEntry .presence id 0 l)

/-- The REPORT of a count-complete boundary is handed over (R34, R57): the report outcome becomes
pending as it joins, or NOT_SENT at once while transmit is barred. A channel that an overflow frees commits
after the joining, so that it can take the new REPORT (R58, R62; DESIGN CHOICE, log 27). -/
def handReport (live : Bool) (id : IntervalId) (net : Int) (l : Line) : Line :=
  if l.barred then { l with outcome := .notSent }
  else if hasKey l .report id then l
  else judgeLine live { addEntry .report id net l with outcome := .pending }

/-! ## Window close, barring and HOLD -/

/-- A copy of a REPORT that is in the list is cut (R61). -/
def cutReport (list : List Entry) (c : Chan) : Chan :=
  if inList (list.filter fun e => e.kind == .report) c.committed then cutChan c else c

/-- A window close (R61, R73): REPORT entries leave, their copies are cut, the outcome becomes none
and the duplicate filter is cleared. The outcome it hands over is `l.outcome`. -/
def lineWindowClose (live : Bool) (l : Line) : Line :=
  judgeLine live
    { l with l := cutReport l.sendList l.l, h := cutReport l.sendList l.h,
             sendList := l.sendList.filter fun e => e.kind != .report,
             outcome := .noReport, filter := [] }

/-- A channel as transmit becomes barred: SENDING is cut, DEFER and BACKOFF return to IDLE (R75). -/
def barChan (c : Chan) : Chan :=
  match c.access with
  | .idle => c
  | .defer => toIdleFresh c
  | .backoff => toIdleFresh c
  | .sending => cutChan c

/-- The transmit-barred flag is set and the list emptied (R75); a REPORT that leaves gives the report
outcome of R60. -/
def barLine (l : Line) : Line :=
  { l with l := barChan l.l, h := barChan l.h, sendList := [],
           outcome := l.sendList.foldl outcomeOnLeave l.outcome, barred := true }

/-- A channel on HOLD entry (R77). -/
def holdChan (c : Chan) : Chan :=
  { toIdleFresh c with recv := .off }

/-- The Line Controller on HOLD entry, after any settlement of an open window (R77). -/
def lineHold (l : Line) : Line :=
  { l with l := holdChan l.l, h := holdChan l.h, sendList := [], outcome := .noReport, filter := [] }

/-- A channel that is not OFF begins to receive, waiting for quiet (R70, R77, R148). -/
def startReceiving (c : Chan) : Chan :=
  if c.state = .off then c else { c with recv := .waitQuiet }

/-- Both channels begin to receive. -/
def lineStartReceiving (l : Line) : Line :=
  { l with l := startReceiving l.l, h := startReceiving l.h }

/-! ## Channel health -/

/-- One count against the channel (R72): saturating at 255; a GOOD channel that reaches 32 becomes
DEGRADED; an OFF channel's counter does not move. -/
def errorUp (c : Chan) : Chan :=
  if c.state = .off then c
  else
    { c with
      errors := min 255 (c.errors + 1)
      state := if c.state = .good ∧ 32 ≤ c.errors + 1 then .degraded else c.state }

/-- One count in the channel's favour (R72): not below 0; a DEGRADED channel that reaches 0 becomes
GOOD. -/
def errorDown (c : Chan) : Chan :=
  if c.state = .off then c
  else
    { c with
      errors := c.errors - 1
      state := if c.state = .degraded ∧ c.errors ≤ 1 then .good else c.state }

/-- The change latches CHANNEL: a channel became DEGRADED (R72). -/
def becameDegraded (before after : Chan) : Bool :=
  before.state != .degraded && after.state == .degraded

/-- One count against a channel, with what follows for the sending set and the list (R59, R72). -/
def lineErrorUp (live : Bool) (ch : Channel) (l : Line) : Line :=
  judgeLine live (setChan l ch (errorUp (chanOf l ch)))

/-- One count in a channel's favour, with what follows (R59, R72). -/
def lineErrorDown (live : Bool) (ch : Channel) (l : Line) : Line :=
  judgeLine live (setChan l ch (errorDown (chanOf l ch)))

/-! ## Attempts -/

/-- A status of the committed entry is set; a REPORT still in the list whose copy is SENT gives the
outcome SENT (R60, R65). -/
def setStatus (ch : Channel) (st : CopyStatus) (serial : Option Nat) (l : Line) : Line :=
  { l with
    sendList := l.sendList.map fun e => if serial = some e.serial then withStatus ch st e else e
    outcome :=
      if st = .sent ∧ (l.sendList.any fun e => serial == some e.serial && e.kind == .report) then .sent
      else l.outcome }

/-- The echo of the last byte matches (R65): TXEN falls, the entry is SENT on the channel if it is
still in the list (R68), the channel is IDLE with attempt count 0. -/
def attemptSent (live : Bool) (ch : Channel) (l : Line) : Line :=
  let c := chanOf l ch
  judgeLine live
    (setChan (setStatus ch .sent c.committed l) ch (recvAfterSending (toIdleFresh c)))

/-- An attempt has failed (R66, R67, R68): TXEN falls and the attempt count rises. An entry that has
left the list is forgotten; the eighth failure drops the entry on the channel; a channel outside the
sending set, or that left it during the attempt, returns to IDLE; otherwise it enters DEFER. -/
def attemptFailed (live : Bool) (ch : Channel) (l : Line) : Line :=
  let c := chanOf l ch
  if inList l.sendList c.committed = false then
    judgeLine live (setChan l ch (recvAfterSending (toIdleFresh c)))
  else if 8 ≤ c.attempts + 1 then
    judgeLine live
      (setChan (setStatus ch .dropped c.committed l) ch (recvAfterSending (toIdleFresh c)))
  else if c.lapsed || !inSendingSet l ch then
    judgeLine live (setChan l ch (recvAfterSending (toIdleFresh c)))
  else
    judgeLine live
      (setChan l ch (recvAfterSending (toDefer { c with attempts := c.attempts + 1 })))

/-- The channel enters SENDING with its copy (R65): TXEN active, the first byte on TXD, any reception
discarded, the echo and the jabber guard timed. -/
def beginSending (bytes : List Byte) (c : Chan) : Chan :=
  { c with access := .sending, copy := bytes, recv := .discarding, gapTimer := none,
           backoffTimer := none, echoTimer := some echoTicks, jabberTimer := some jabberTicks }

/-- A REPORT copy whose delay would exceed 65535 is DROPPED without an attempt and the channel returns
to IDLE (R56); its attempt count is not changed (log 14). -/
def dropLateCopy (live : Bool) (ch : Channel) (l : Line) : Line :=
  let c := chanOf l ch
  judgeLine live (setChan (setStatus ch .dropped c.committed l) ch (toIdle c))

/-! ## The duplicate filter -/

/-- The keys held under a station and kind (R73). -/
def keysUnder (k : FilterKey) (f : List FilterKey) : List FilterKey :=
  f.filter fun x => x.station == k.station && x.kind == k.kind

/-- The oldest key under a station and kind is dropped. -/
def dropOldestKey (k : FilterKey) : List FilterKey → List FilterKey
  | [] => []
  | x :: rest => if x.station = k.station ∧ x.kind = k.kind then rest else x :: dropOldestKey k rest

/-- An accepted frame enters its key; the oldest of four under its station and kind is replaced
(R73). -/
def enterKey (k : FilterKey) (f : List FilterKey) : List FilterKey :=
  if (keysUnder k f).length < 4 then f ++ [k] else dropOldestKey k f ++ [k]

end Sys2Proof.Machine
end

