-- ==== Sys2Proof/Machine/SettleOps.lean ====
section
/-! DEFINITION. The Settlement Unit's operations: the peer view, classifying reports, matching, trim,
streak, headroom and the record of an interval (R78 to R104). -/

namespace Sys2Proof.Machine

/-! ## The peer view -/

/-- A cleared entry of the peer view (R81). -/
def clearedPeer (station : Option Nat) : PeerEntry :=
  { PeerEntry.reset with station := station }

/-- The fifteen entries keyed by the station numbers other than the part's own (R78). -/
def keyedPeers (own : Nat) : List PeerEntry :=
  ((List.range 16).filter fun n => n != own).map fun n => clearedPeer (some n)

/-- Every entry is cleared; the keys stay (R81). -/
def clearPeers (ps : List PeerEntry) : List PeerEntry :=
  ps.map fun p => clearedPeer p.station

/-- The entry of one station is changed. -/
def updatePeer (station : Nat) (g : PeerEntry → PeerEntry) (ps : List PeerEntry) : List PeerEntry :=
  ps.map fun p => if p.station = some station then g p else p

/-- The entry of a station, if the view holds one. -/
def peerOf (ps : List PeerEntry) (station : Nat) : Option PeerEntry :=
  ps.find? fun p => p.station == some station

/-- A frame of the peer is accepted in RUN (R79). -/
def touchPeer (ch : Channel) (id : IntervalId) (p : PeerEntry) : PeerEntry :=
  { p with state := .present, missed := 0, lastId := some id, lastChannel := some ch }

/-- A closing slot that is not filled is filled (R84). -/
def fillClosing (s : ClosingSlot) (p : PeerEntry) : PeerEntry :=
  match p.closing with
  | some _ => p
  | none => { p with closing := some s }

/-! ## Classifying reports -/

/-- The class of a report with what it fills (R82). -/
inductive ReportClass where
  | aligned (offset : Int)
  | early (elapsed : Nat)
  | late
  | misaligned
  deriving DecidableEq, Repr

/-- The largest magnitude of a plausible offset (R84, R87). -/
def plausible (o : Int) : Bool :=
  decide (o.natAbs ≤ 4096)

/-- The receiver's position e_r for a report of the interval whose window is open (R83): `cur` is the
interval in progress, which followed the reported one. -/
def receiverPosition (cur reported : IntervalId) (length : Nat) (cap : Option Capture) : Option Int :=
  match cap with
  | none => none
  | some k =>
    if k.id = cur then some k.elapsed
    else if k.id = reported then some ((k.elapsed : Int) - length)
    else none

/-- The class of a report for the interval whose window is open (R84). -/
def alignedClass (cur reported : IntervalId) (closing : Option Figures) (delay : Nat)
    (cap : Option Capture) : ReportClass :=
  match closing with
  | none => .misaligned
  | some f =>
    match receiverPosition cur reported f.length cap with
    | none => .misaligned
    | some e => if plausible (e - delay) then .aligned (e - delay) else .misaligned

/-- The tests of R82, in order. -/
def classifyReport (c : Setup) (it : IntervalTimer) (closing : Option Figures) (f : GroupFrame)
    (delay : Nat) (cap : Option Capture) : ReportClass :=
  let d := perDay c.lengthCode
  let prev := predId d it.id
  if f.lengthCode ≠ c.lengthCode then .misaligned
  else if f.id = prev ∧ it.window = some prev then alignedClass it.id f.id closing delay cap
  else if f.id = it.id then
    match cap with
    | some k => if k.id = it.id then .early k.elapsed else .misaligned
    | none => .misaligned
  else if f.id = prev ∨ f.id = predId d prev then .late
  else .misaligned

/-- The effect of a report's class on the unit (R84 to R86). -/
def applyClass (station : Nat) (net : Int) (delay : Nat) (cl : ReportClass) (u : Settlement) :
    Settlement :=
  match cl with
  | .aligned o => { u with peers := updatePeer station (fillClosing ⟨net, o⟩) u.peers }
  | .early e =>
    { u with peers := updatePeer station (fun p => { p with early := some ⟨net, e, delay⟩ }) u.peers }
  | .late => u
  | .misaligned => { u with misaligned := true }

/-- A frame accepted in RUN reaches the unit (R79, R82). -/
def receiveFrame (c : Setup) (it : IntervalTimer) (ch : Channel) (cap : Option Capture)
    (f : GroupFrame) (u : Settlement) : Settlement :=
  let v := { u with peers := updatePeer f.station (touchPeer ch f.id) u.peers }
  match f.body with
  | .presence _ _ => v
  | .report net delay =>
    applyClass f.station net delay (classifyReport c it u.closing f delay cap) v

/-! ## Opening a window -/

/-- The offset of an early slot once the interval's actual length is known (R87). -/
def earlyOffset (length : Nat) (e : EarlySlot) : Int :=
  (e.elapsed : Int) - length - e.delay

/-- An entry as a window opens: Counted is set for a PRESENT peer (R80), and a filled early slot is
resolved (R87). -/
def openPeer (length : Nat) (p : PeerEntry) : PeerEntry :=
  let q := { p with counted := p.state == .present, early := none }
  match p.early with
  | none => q
  | some e =>
    if plausible (earlyOffset length e) then { q with closing := some ⟨e.net, earlyOffset length e⟩ }
    else q

/-- A filled early slot is found MISALIGNED (R87). -/
def earlyImplausible (length : Nat) (p : PeerEntry) : Bool :=
  match p.early with
  | none => false
  | some e => !plausible (earlyOffset length e)

/-- The unit at a count-complete boundary in RUN (R88). -/
def openWindow (f : Figures) (u : Settlement) : Settlement :=
  { u with peers := u.peers.map (openPeer f.length), closing := some f,
           misaligned := u.misaligned || u.peers.any (earlyImplausible f.length) }

/-! ## Matching -/

/-- The nets of the filled closing slots. -/
def heardNets (ps : List PeerEntry) : List Int :=
  ps.filterMap fun p => p.closing.map (·.net)

/-- The offsets of the filled closing slots. -/
def heardOffsets (ps : List PeerEntry) : List Int :=
  ps.filterMap fun p => p.closing.map (·.offset)

/-- M, the sum of the nets that are positive (R92). -/
def importSum (nets : List Int) : Nat :=
  (nets.map Int.toNat).sum

/-- X, the sum of the magnitudes of the nets that are negative (R92). -/
def exportSum (nets : List Int) : Nat :=
  (nets.map fun n => (-n).toNat).sum

/-- The number of members whose net is negative (R97). -/
def exporterCount (nets : List Int) : Nat :=
  (nets.filter fun n => decide (n < 0)).length

/-- The own matched share (R93). -/
def matchedShare (own : Int) (peers : Nat) (m x : Nat) : Nat :=
  if peers = 0 then 0
  else if 0 < own then own.toNat * min m x / m
  else if own < 0 then (-own).toNat * min m x / x
  else 0

/-- The bit of a station in a heard mask (R94). -/
def stationBit (n : Nat) : BitVec 16 :=
  1#16 <<< n

/-- The heard mask: the own bit and the bit of each peer with a filled closing slot (R94). -/
def heardMask (own : Nat) (ps : List PeerEntry) : BitVec 16 :=
  (((ps.filter fun p => p.closing.isSome).filterMap (·.station)).map stationBit).foldl (· ||| ·)
    (stationBit own)

/-- The expected count (R80). -/
def expectedCount (ps : List PeerEntry) : Nat :=
  (ps.filter (·.counted)).length

/-- The trim of a settlement: trunc(sum / (2 × count)) limited to -32 to 32, and 0 with no filled slot
(R95). -/
def trimOf (offsets : List Int) : Int :=
  if offsets = [] then 0 else max (-32) (min 32 (offsets.sum.tdiv (2 * offsets.length)))

/-- An entry after a settlement: a counted peer that was not heard steps its missed count and becomes
SILENT at 4 (R80); the closing slot is emptied and Counted cleared (R91). -/
def settlePeer (p : PeerEntry) : PeerEntry :=
  let q := { p with closing := none, counted := false }
  if p.counted && p.closing.isNone then
    { q with missed := min 4 (p.missed + 1),
             state := if 4 ≤ p.missed + 1 then .silent else p.state }
  else q

/-- The alignment streak after a settlement (R96). -/
def nextStreak (heard : Nat) (misaligned : Bool) (streak : Nat) : Nat :=
  if heard ≠ 0 then 0
  else if misaligned then (if 3 ≤ streak + 1 then 0 else streak + 1)
  else streak

/-- The settlement latches ALIGNMENT (R96). -/
def streakFires (heard : Nat) (misaligned : Bool) (streak : Nat) : Bool :=
  heard == 0 && misaligned && decide (3 ≤ streak + 1)

/-- The headroom bonus: floor(M_others × Q / (B × E)) (R97). -/
def headroomBonus (c : Setup) (own : Int) (nets : List Int) : Nat :=
  (importSum nets - own.toNat) * c.quantum / (fullBlocks c.lengthCode * max 1 (exporterCount nets))

/-- The pending cap of a settlement (R97, R98): the base cap plus the bonus, at most the ceiling cap,
and the base cap with no peer heard. -/
def settledCap (c : Setup) (own : Int) (peerNets : List Int) : Nat :=
  if peerNets = [] then c.baseCap
  else min (c.baseCap + headroomBonus c own (own :: peerNets)) c.ceilingCap

/-- The summary of a settlement (R97, R98): valid when a peer was heard. -/
def settledSummary (own : Int) (peerNets : List Int) : Summary :=
  { m := importSum (own :: peerNets), x := exportSum (own :: peerNets),
    exporters := exporterCount (own :: peerNets), valid := !peerNets.isEmpty }

/-- The unit after the settlement of a window (R91). -/
def settleUnit (own : Int) (u : Settlement) : Settlement :=
  let peerNets := heardNets u.peers
  { peers := u.peers.map settlePeer, closing := none, misaligned := false,
    streak := nextStreak peerNets.length u.misaligned u.streak,
    summary := settledSummary own peerNets }

/-! ## Records -/

/-- A record as built (R99, R100). -/
def buildRecord (f : Figures) (k : Marks) (heard : BitVec 16) (expected share m x : Nat) : Record :=
  { firstId := f.id, lastId := f.id, band := f.band, flags := recordFlags f k, mergeCount := 1,
    heard := heard, expected := expected, trim := f.trim, impQuanta := f.impQuanta,
    expQuanta := f.expQuanta, share := share, m := m, x := x }

/-- The record of a window's interval (R91, R94, R99). -/
def windowRecord (c : Setup) (f : Figures) (u : Settlement) (outcome : ReportOutcome)
    (barred : Bool) : Record :=
  let peerNets := heardNets u.peers
  let nets := f.net :: peerNets
  let m := importSum nets
  let x := exportSum nets
  buildRecord f
    { supply := false, unaligned := false, solo := peerNets.isEmpty,
      incomplete := decide (peerNets.length < expectedCount u.peers),
      txFailed := !barred && (outcome == .notSent || outcome == .pending), listenOnly := barred }
    (heardMask c.station u.peers) (expectedCount u.peers)
    (matchedShare f.net peerNets.length m x) m x

/-- What closes an interval before its count completes (R36). -/
inductive EarlyCause where
  | hold
  | setDay
  | resync
  | adoption
  deriving DecidableEq, Repr

/-- The record of an interval closed without a window (R99, R101, R102): over the own net alone. -/
def loneRecord (c : Setup) (f : Figures) (k : Marks) : Record :=
  buildRecord f k (stationBit c.station) 0 0 (importSum [f.net]) (exportSum [f.net])

/-- The marks of an early close (R36, R100 to R102). -/
def earlyMarks (cause : EarlyCause) (op : OpState) (barred : Bool) : Marks :=
  { supply := cause == .hold, unaligned := op == .resync || cause == .resync || cause == .adoption,
    solo := op == .run, incomplete := false, txFailed := false, listenOnly := barred }

/-- The marks of an unaligned count-complete boundary (R35, R102). -/
def unalignedMarks (barred : Bool) : Marks :=
  { supply := false, unaligned := true, solo := false, incomplete := false, txFailed := false,
    listenOnly := barred }

/-- Early slots are emptied (R85). -/
def emptyEarly (u : Settlement) : Settlement :=
  { u with peers := u.peers.map fun p => { p with early := none } }

/-- The clearing of the unit on entry to HOLD and to RESYNC (R81, R96, R98, R103): the summary is
marked invalid and its values kept. -/
def clearUnit (u : Settlement) : Settlement :=
  { peers := clearPeers u.peers, closing := none, misaligned := false, streak := 0,
    summary := { u.summary with valid := false } }

/-! ## Adoption -/

/-- What an adoptable frame gives: the new ID and elapsed count, before the limit to L - 1 (R154,
R155). `since` is the capture's sets-since-capture count. -/
def adoptionPosition (c : Setup) (f : GroupFrame) (since : Nat) : Option (IntervalId × Nat) :=
  if f.lengthCode ≠ c.lengthCode then none
  else
    match f.body with
    | .report _ delay => some (succId (perDay c.lengthCode) f.id, delay + since)
    | .presence st blocks =>
      if st = 1 ∧ blocks < 65535 then some (f.id, 64 * blocks + since) else none

/-- An elapsed count at or above L is set to L - 1 (R37, R155). -/
def limitElapsed (c : Setup) (e : Nat) : Nat :=
  if nominalLength c.lengthCode ≤ e then nominalLength c.lengthCode - 1 else e

end Sys2Proof.Machine
end

