-- ==== Sys2Proof/Machine/IntervalOps.lean ====
section
/-! DEFINITION. The operations that several blocks take together: a block close, an interval close,
the opening and settling of a window, early closes, the processing of a set, and the passages between
operating states. -/

namespace Sys2Proof.Machine

/-! ## Block close -/

/-- The accepted figure of one direction: 0 below the creep threshold (R22). -/
def acceptFigure (creep acc : Nat) : Nat :=
  if acc < creep then 0 else acc

/-- Whole quanta of a residue with an accepted figure added (R23). -/
def quantaOf (q residue accepted : Nat) : Nat :=
  (residue + accepted) / q

/-- The residue that is carried forward (R23). -/
def residueOf (q residue accepted : Nat) : Nat :=
  (residue + accepted) % q

/-- An interval counter with quanta added, limited to 2^31 - 1 (R48). -/
def addCounter (n q : Nat) : Nat :=
  min (2 ^ 31 - 1) (n + q)

/-- A counter would pass 2^31 - 1 (R48). -/
def counterSaturates (n q : Nat) : Bool :=
  decide (2 ^ 31 - 1 < n + q)

/-- A band total with quanta added, wrapping at 2^40 (R50). -/
def addTotal (t q : Nat) : Nat :=
  (t + q) % 2 ^ 40

/-- The Register Bank takes the quanta of a block (R25, R48, R50). -/
def bankQuanta (qi qe : Nat) (b : RegisterBank) : RegisterBank :=
  let p := totalsOf b.totals b.band
  { b with
    impQuanta := addCounter b.impQuanta qi
    expQuanta := addCounter b.expQuanta qe
    saturated := b.saturated || counterSaturates b.impQuanta qi || counterSaturates b.expQuanta qe
    totals := setTotals b.totals ⟨addTotal p.imp qi, addTotal p.exp qe⟩ b.band }

/-- The block net export (R26): the accepted export less the accepted import, not below 0. -/
def blockNetExport (acceptedImport acceptedExport : Nat) : Nat :=
  acceptedExport - acceptedImport

/-- The Netting Engine after a block close: figures accepted and quantized, the block empty (R19, R22,
R23). -/
def closeNetting (c : Setup) (n : NettingEngine) : NettingEngine :=
  { n with
    accImport := 0, accExport := 0, blockSets := 0
    residueImport := residueOf c.quantum n.residueImport (acceptFigure c.creep n.accImport)
    residueExport := residueOf c.quantum n.residueExport (acceptFigure c.creep n.accExport) }

/-- A block closes with the figures it holds; `judged` is false only at HOLD entry (R21), where the
block net export is not handed on (R19 to R26, R107). -/
def closeBlock (c : Setup) (judged : Bool) (s : State) : State :=
  let ai := acceptFigure c.creep s.ne.accImport
  let ae := acceptFigure c.creep s.ne.accExport
  let qi := quantaOf c.quantum s.ne.residueImport ai
  let qe := quantaOf c.quantum s.ne.residueExport ae
  let net := blockNetExport ai ae
  { s with
    ne := closeNetting c s.ne
    rb := bankQuanta qi qe s.rb
    el := if judged then judgeBlock c (isLive s) net s.el else s.el
    alerts := raiseIf (judged && firesUnshed c (isLive s) net s.el) .exportUnshed s.alerts }

/-! ## Interval close and interval begin -/

/-- The figures of the interval in progress as it closes (R29, R49, R89, R119): an early close carries
trim 0 (R36) and SHORT, as does an interval that began at a preset position above 0 (R37). -/
def takeFigures (early : Bool) (s : State) : Figures :=
  { id := s.it.id, length := s.it.elapsed, trim := if early then 0 else s.it.trim,
    impQuanta := s.rb.impQuanta, expQuanta := s.rb.expQuanta,
    net := (s.rb.impQuanta : Int) - s.rb.expQuanta, saturated := s.rb.saturated,
    band := s.rb.band, held := s.ne.heldSeen, fault := s.ne.faultSeen,
    curtailed := s.el.curtailedSeen, cutoff := s.el.cutoffSeen,
    short := early || decide (0 < s.it.startPos) }

/-- The counters and the sample flags start again (R29, R49). -/
def clearInterval (s : State) : State :=
  { s with rb := { s.rb with impQuanta := 0, expQuanta := 0, saturated := false },
           ne := { s.ne with heldSeen := false, faultSeen := false } }

/-- An interval begins with this ID, elapsed count and band (R34, R35, R37, R47, R119). -/
def beginInterval (c : Setup) (id : IntervalId) (elapsed : Nat) (band : Band) (s : State) : State :=
  { s with
    it := { s.it with id := id, elapsed := elapsed, startPos := elapsed, trim := 0,
                      length := some (nominalLength c.lengthCode) }
    rb := { s.rb with band := band }
    el := startFlags s.el }

/-- The presence counter is stepped at a count-complete boundary in RUN (R43). -/
def pacePresence (c : Setup) (s : State) : State :=
  if s.it.presence = 1 then
    { s with it := { s.it with presence := c.presence },
             line := handPresence (isLive s) s.it.id s.line }
  else { s with it := { s.it with presence := s.it.presence - 1 } }

/-- A count-complete boundary in RUN (R34, R43, R49, R57, R88, R89). -/
def countBoundary (c : Setup) (s : State) : State :=
  let f := takeFigures false s
  let next := succId (perDay c.lengthCode) s.it.id
  let s1 := clearInterval
    { s with su := openWindow f s.su, it := { s.it with window := some f.id } }
  let s2 := beginInterval c next 0 (bandFor c.calendar next.iod) s1
  pacePresence c { s2 with line := handReport (isLive s2) f.id f.net s2.line }

/-- A count-complete boundary in RESYNC (R35, R102). -/
def unalignedClose (c : Setup) (s : State) : State :=
  let r := loneRecord c (takeFigures false s) (unalignedMarks s.line.barred)
  beginInterval c (succId (perDay c.lengthCode) s.it.id) 0 .unbanded (clearInterval (putRecord r s))

/-! ## Settling a window -/

/-- A settlement whole (R61, R73, R91, R97, R98), less its trim. -/
def settleWindow (c : Setup) (f : Figures) (s : State) : State :=
  let peerNets := heardNets s.su.peers
  putRecord (windowRecord c f s.su s.line.outcome s.line.barred)
    { s with
      it := { s.it with window := none }
      line := lineWindowClose (isLive s) s.line
      su := settleUnit f.net s.su
      el := handCap (settledCap c f.net peerNets) s.el
      alerts := raiseIf (streakFires peerNets.length s.su.misaligned s.su.streak) .alignment s.alerts }

/-- The open window is closed and settled. An open window always has its closing record (R88); a
state without one only closes the window. -/
def closeWindow (c : Setup) (s : State) : State :=
  match s.su.closing with
  | some f => settleWindow c f s
  | none => { s with it := { s.it with window := none }, line := lineWindowClose (isLive s) s.line }

/-- The trim handed back becomes the pending trim and changes the interval's length (R39). -/
def applyTrim (c : Setup) (t : Int) (s : State) : State :=
  { s with it := { s.it with trim := t, length := some ((nominalLength c.lengthCode : Int) + t).toNat } }

/-- A window close whose count is reached (R38, R39). -/
def windowCloses (c : Setup) (s : State) : State :=
  applyTrim c (trimOf (heardOffsets s.su.peers)) (closeWindow c s)

/-! ## Early closes -/

/-- The open block, if it holds a set, is closed (R21). -/
def closeOpenBlock (c : Setup) (judged : Bool) (s : State) : State :=
  if s.ne.blockSets = 0 then s else closeBlock c judged s

/-- An open window is settled first, and its trim discarded (R40). -/
def settleOpenWindow (c : Setup) (s : State) : State :=
  if s.it.window.isSome then closeWindow c s else s

/-- In RUN the SOLO close hands over the base cap and replaces the summary (R98, R101); in RESYNC
nothing is settled (R102). -/
def soloEffects (c : Setup) (op : OpState) (net : Int) (s : State) : State :=
  if op = .run then
    { s with el := handCap c.baseCap s.el, su := { s.su with summary := settledSummary net [] } }
  else s

/-- An interval is closed before its count completes (R21, R36, R40, R85, R101 to R103). The block is
closed before any cap is handed over (R105, R106; log 7). -/
def earlyClose (c : Setup) (cause : EarlyCause) (s : State) : State :=
  let s1 := settleOpenWindow c (closeOpenBlock c (cause != .hold) s)
  let f := takeFigures true s1
  let r := loneRecord c f (earlyMarks cause s.supply.op s1.line.barred)
  let s2 := clearInterval (putRecord r s1)
  soloEffects c s.supply.op f.net { s2 with su := emptyEarly s2.su }

/-! ## What a processed set makes due -/

/-- The interval in progress is count-complete: its elapsed count has reached its length (R31). -/
def countComplete (s : State) : Bool :=
  isLive s &&
    match s.it.length with
    | some n => decide (n ≤ s.it.elapsed)
    | none => false

/-- The open block has filled, or holds the set that completed the interval (R19, R20). -/
def blockDue (s : State) : Bool :=
  isLive s && (decide (64 ≤ s.ne.blockSets) || (countComplete s && decide (0 < s.ne.blockSets)))

/-- The window is open and the elapsed count has reached W (R38). -/
def windowDue (c : Setup) (s : State) : Bool :=
  isLive s && s.it.window.isSome && decide (c.window ≤ s.it.elapsed)

/-- A due block close is taken. -/
def takeDueBlock (c : Setup) (s : State) : State :=
  if blockDue s then closeBlock c true s else s

/-- A due boundary is taken, of the kind of the operating state (R34, R35). -/
def takeDueBoundary (c : Setup) (s : State) : State :=
  if countComplete s then
    (if s.supply.op = .run then countBoundary c s else unalignedClose c s)
  else s

/-- A due window close is taken. -/
def takeDueWindow (c : Setup) (s : State) : State :=
  if windowDue c s then windowCloses c s else s

/-- What the last set has made due and no other event comes before is taken: the block close, then the
boundary (R20, R31). Every command but the four rows of these steps themselves, a power-on reset, an event
of CSN and the rows of HOLD begins with this (log 2). A due window close is left to its own row, since
another event of its moment can be taken before it (R61, R73, R153). -/
def takeDue (s : State) : State :=
  match s.config with
  | none => s
  | some c => takeDueBoundary c (takeDueBlock c s)

/-- No block close and no boundary is due. -/
def nothingDue (s : State) : Bool :=
  match s.config with
  | none => true
  | some _ => !blockDue s && !countComplete s

/-- All that the last set has made due is taken, the window close last (R38): a set begins with this, so
that the window closes at its own set. R106 leaves the order of a block close and a window close on one set
open; where no row comes between that set and the next, as inside a back-fill (R5), the block closes first
(DESIGN CHOICE, log 2). -/
def takeAllDue (c : Setup) (s : State) : State :=
  takeDueWindow c (takeDue s)

/-! ## Processing a set -/

/-- A calibrated product: floor(v × i × g / 32768) (R15). `Int`'s `/` by a positive number rounds
toward minus infinity. -/
def calibrated (v i : Int) (g : Nat) : Int :=
  v * i * g / 32768

/-- The products of a received set; a disabled phase holds 0 (R11, R15). -/
def formProducts (c : Setup) (x : Samples) : Products :=
  { p1 := if c.phase1 then calibrated x.v1 x.i1 c.gain1 else 0
    p2 := if c.phase2 then calibrated x.v2 x.i2 c.gain2 else 0
    p3 := if c.phase3 then calibrated x.v3 x.i3 c.gain3 else 0 }

/-- What a set adds to the import accumulator (R17, R18). -/
def setImport (m : NettingMode) (p : Products) : Nat :=
  match m with
  | .phaseSum => (p.p1 + p.p2 + p.p3).toNat
  | .perPhase => p.p1.toNat + p.p2.toNat + p.p3.toNat

/-- What a set adds to the export accumulator (R17, R18). -/
def setExport (m : NettingMode) (p : Products) : Nat :=
  match m with
  | .phaseSum => (-(p.p1 + p.p2 + p.p3)).toNat
  | .perPhase => (-p.p1).toNat + (-p.p2).toNat + (-p.p3).toNat

/-- A set is netted into the open block (R17 to R19). -/
def netSet (m : NettingMode) (p : Products) (n : NettingEngine) : NettingEngine :=
  { n with accImport := n.accImport + setImport m p, accExport := n.accExport + setExport m p,
           blockSets := n.blockSets + 1 }

/-- A filled capture counts one more set, saturating at 65535 (R41). -/
def ageCapture : Option Capture → Option Capture
  | none => none
  | some k => some { k with since := min 65535 (k.since + 1) }

/-- A set is netted and counted (R13, R31, R41). -/
def countSet (c : Setup) (p : Products) (s : State) : State :=
  { s with
    ne := netSet c.mode p s.ne
    it := { s.it with elapsed := s.it.elapsed + 1, captureL := ageCapture s.it.captureL,
                      captureH := ageCapture s.it.captureH } }

/-- A missing set brings the Sample Port to LOST (R12). -/
def becomesLost (p : SamplePort) : Bool :=
  decide (64 ≤ p.missing + 1) && p.state != .lost

/-- The Sample Port after a missing set (R10, R12). -/
def missSet (p : SamplePort) : SamplePort :=
  let q := { p with missing := min 64 (p.missing + 1) }
  if becomesLost p then { q with state := .lost, expected := none } else q

/-- The products of a missing set (R10, R16): the last good products while the count is 1 or 2, and
products of 0 from 3. -/
def missingProducts (p : SamplePort) : Products :=
  if p.missing + 1 ≤ 2 then p.lastGood else ⟨0, 0, 0⟩

/-- The sample flags a missing set raises (R10, R29). -/
def flagMissing (p : SamplePort) (n : NettingEngine) : NettingEngine :=
  if p.missing + 1 ≤ 2 then { n with heldSeen := true } else { n with faultSeen := true }

/-- One missing set is processed (R10, R12), after what the set before it made due. -/
def missingSet (c : Setup) (s : State) : State :=
  let t := takeAllDue c s
  countSet c (missingProducts t.sp)
    { t with sp := missSet t.sp, ne := flagMissing t.sp t.ne,
             alerts := raiseIf (becomesLost t.sp) .sample t.alerts }

/-- `k` missing sets, one after another (R5). -/
def missingSets (c : Setup) : Nat → State → State
  | 0, s => s
  | k + 1, s => missingSets c k (missingSet c s)

/-- A received set is processed (R4), after what the set before it made due. -/
def receivedSet (c : Setup) (seq : BitVec 8) (x : Samples) (s : State) : State :=
  let t := takeAllDue c s
  let p := formProducts c x
  countSet c p
    { t with sp := { state := .running, expected := some (seq + 1), missing := 0, lastGood := p,
                     watchdog := some 3840 } }

/-- A valid frame by its difference from the expected number (R4 to R7). -/
def takeFrame (c : Setup) (bytes : List Byte) (s : State) : State :=
  let seq := sampleSequence bytes
  match s.sp.expected with
  | none => receivedSet c seq (sampleValues bytes) s
  | some e =>
    if (seq - e).toNat ≤ 127 then
      receivedSet c seq (sampleValues bytes) (missingSets c (seq - e).toNat s)
    else s

/-- The Sample Port leaves IDLE (R3). -/
def leaveIdle (p : SamplePort) : SamplePort :=
  { p with state := .running, expected := none, missing := 0, watchdog := some 3840 }

/-! ## Passages between operating states -/

/-- The operating state changes. -/
def setOp (op : OpState) (s : State) : State :=
  { s with supply := { s.supply with op := op } }

/-- The effects common to leaving START and leaving HOLD (R3, R70, R77, R121, R122): the Sample Port
leaves IDLE, every channel not OFF begins to receive, the settling flag is set. -/
def wakeBlocks (s : State) : State :=
  { s with sp := leaveIdle s.sp, line := lineStartReceiving s.line,
           el := { s.el with settling := true } }

/-- RUN is entered with an interval at a preset position (R37, R43, R47, R148, R156, R179). -/
def enterRun (c : Setup) (id : IntervalId) (elapsed : Nat) (s : State) : State :=
  let t := beginInterval c id elapsed (bandFor c.calendar id.iod) (setOp .run s)
  { t with it := { t.it with presence := c.presence }, line := handPresence true id t.line }

/-- RESYNC is entered with an unaligned interval (R33, R36, R43, R47, R179). -/
def enterResync (c : Setup) (id : IntervalId) (s : State) : State :=
  let t := beginInterval c id 0 .unbanded (setOp .resync s)
  { t with line := handPresence true id t.line }

/-- The interval in progress is closed at HOLD entry from RUN or RESYNC, and the base cap handed over
after its record (R36, R98, R150). -/
def holdClose (s : State) : State :=
  match s.config with
  | none => s
  | some c =>
    if isLive s then
      let t := earlyClose c .hold s
      { t with el := handCap c.baseCap t.el }
    else s

/-- The return state of a HOLD entry (R149). -/
def returnState (op : OpState) : OpState :=
  match op with
  | .start => .start
  | .run => .resync
  | .resync => .resync
  | .hold => .resync

/-- The release timer from its start to 819,200 ticks (R151). -/
def releaseTicks : Nat := 819200

/-- A HOLD entry, every block (R149, R150). `pfwStill` is PFW's level at the end of the entry: the
release timer runs from there if it is inactive (R151). -/
def enterHold (pfwStill : Bool) (s : State) : State :=
  let t := holdClose s
  { t with
    supply := { t.supply with op := .hold, ret := returnState s.supply.op, pfw := pfwStill,
                              release := if pfwStill then none else some releaseTicks }
    sp := SamplePort.reset
    it := { t.it with elapsed := 0, startPos := 0, trim := 0, window := none, captureL := none,
                      captureH := none }
    line := lineHold t.line
    su := clearUnit t.su
    el := limiterHold t.el
    alerts := raise .supply t.alerts }

/-- PFW already active on entry to START, RUN or RESYNC is a HOLD entry (R149). -/
def holdIfWarned (s : State) : State :=
  if s.supply.pfw then enterHold true s else s

/-- HOLD is left (R152): the timer stops, and SUPPLY is latched. -/
def endHold (s : State) : State :=
  { s with supply := { s.supply with op := .start, release := none },
           alerts := raise .supply s.alerts }

/-- The release timer's end (R152): START again, or RESYNC with the first unaligned interval at the
successor of the ID closed at entry. A return state of RESYNC always comes with a configuration. -/
def leaveHold (s : State) : State :=
  match s.supply.ret, s.config with
  | .resync, some c => enterResync c (succId (perDay c.lengthCode) s.it.id) (wakeBlocks (endHold s))
  | _, _ => endHold s

/-- A part that is held in reset (R143, R161): it takes no event of its inputs and serves no
transaction; CSN stays as it is. -/
def holdReset (s : State) : State :=
  { s with supply := { s.supply with resetHeld := true },
           port := { Port.reset with serving := false, csnLow := s.port.csnLow } }

/-- The end of a reset (R143): START, or HOLD with SUPPLY latched while PFW is active. A transaction whose
CSN is low then is not served (R161). -/
def endReset (pfw csnLow : Bool) (s : State) : State :=
  { s with
    supply := { s.supply with op := if pfw then .hold else .start, ret := .start, release := none,
                              pfw := pfw, resetHeld := false }
    alerts := raiseIf pfw .supply s.alerts
    port := { Port.reset with serving := !csnLow, csnLow := csnLow } }

/-- A reset as its row reports it, on a part with its values after that reset: held, or ended. -/
def resetPhase (r : ResetPhase) (s : State) : State :=
  match r with
  | .held => holdReset s
  | .ended pfw csnLow => endReset pfw csnLow s

/-- The values of power-on reset, with what is outside the part or the model's own: the queue, the draw
counter and the levels of the CS and CSN inputs. -/
def clearedPart (s : State) : State :=
  { State.reset with
    pending := s.pending, draws := s.draws,
    line := { Line.reset with l := { Chan.reset with cs := s.line.l.cs },
                              h := { Chan.reset with cs := s.line.h.cs } },
    port := { Port.reset with csnLow := s.port.csnLow } }

/-- The values after RESETN: the retention domain is kept (R158). -/
def retainedPart (s : State) : State :=
  { clearedPart s with
    ne := { NettingEngine.reset with residueImport := s.ne.residueImport,
                                     residueExport := s.ne.residueExport }
    rb := { RegisterBank.reset with totals := s.rb.totals }
    store := s.store
    supply := { Supply.reset with retentionValid := s.supply.retentionValid,
                                  retainedQ := s.supply.retainedQ } }

end Sys2Proof.Machine
end

