-- ==== Sys2Proof/Machine/GroupLine.lean ====
section
/-! DEFINITION. The commands of the group line, from RECEPTION_START to JABBER_GUARD. -/

namespace Sys2Proof.Machine

/-! ## Reception -/

/-- A channel with its receive state replaced. -/
def setRecv (ch : Channel) (r : RecvState) (s : State) : State :=
  { s with line := setChan s.line ch { chanOf s.line ch with recv := r } }

/-- The Interval Timer with a channel's capture filled (R41). -/
def fillCapture (ch : Channel) (it : IntervalTimer) : IntervalTimer :=
  match ch with
  | .l => { it with captureL := some ⟨it.elapsed, it.id, 0⟩ }
  | .h => { it with captureH := some ⟨it.elapsed, it.id, 0⟩ }

/-- The start of a byte on a ready channel begins a reception and takes the capture (R41, R70). -/
def receptionStarts (ch : Channel) (s : State) : State :=
  if (chanOf s.line ch).recv = .ready then
    { setRecv ch .receiving s with it := fillCapture ch s.it }
  else s

/-- RECEPTION_START (R70). -/
def execReceptionStart (ch : Channel) (s : State) : Host.Outcome State Fault Refusal :=
  .next (receptionStarts ch (takeDue s))

/-- One count against a channel, latching CHANNEL where it becomes DEGRADED (R72). -/
def countError (ch : Channel) (s : State) : State :=
  let c := chanOf s.line ch
  { s with line := lineErrorUp (isLive s) ch s.line,
           alerts := raiseIf (becameDegraded c (errorUp c)) .channel s.alerts }

/-- One count in a channel's favour (R72). -/
def countGood (ch : Channel) (s : State) : State :=
  { s with line := lineErrorDown (isLive s) ch s.line }

/-- A reception ends as MALFORMED by its first byte or a byte error (R70, R71). -/
def malformedEnds (ch : Channel) (s : State) : State :=
  if (chanOf s.line ch).recv = .receiving then countError ch (setRecv ch .discarding s) else s

/-- MALFORMED_RECEPTION (R70). -/
def execMalformedReception (ch : Channel) (s : State) : Host.Outcome State Fault Refusal :=
  .next (malformedEnds ch (takeDue s))

/-- A reception ends as MALFORMED on a timeout; the channel is left ready (R70, R71). -/
def timeoutEnds (ch : Channel) (s : State) : State :=
  if (chanOf s.line ch).recv = .receiving then countError ch (setRecv ch .ready s) else s

/-- RECEPTION_TIMEOUT (R70). -/
def execReceptionTimeout (ch : Channel) (s : State) : Host.Outcome State Fault Refusal :=
  .next (timeoutEnds ch (takeDue s))

/-- A channel waiting for quiet or discarding becomes ready (R70). While the channel sends, the bytes
on RXD are echoes and it stays discarding (R65; log 16). -/
def becomesReady (ch : Channel) (s : State) : State :=
  let c := chanOf s.line ch
  if (c.recv = .waitQuiet ∨ c.recv = .discarding) ∧ c.access ≠ .sending then setRecv ch .ready s
  else s

/-- RECEIVE_READY (R70). -/
def execReceiveReady (ch : Channel) (s : State) : Host.Outcome State Fault Refusal :=
  .next (becomesReady ch (takeDue s))

/-! ## A complete frame -/

/-- The outcome of a complete frame (R71). -/
inductive FrameOutcome where
  | crcError
  | malformed
  | foreign
  | duplicateStation
  | duplicate
  | accepted
  deriving DecidableEq, Repr

/-- The key of a received frame (R73). -/
def frameKey (f : GroupFrame) : FilterKey :=
  ⟨f.station, frameKind f, f.id⟩

/-- The checks of R71, in order. -/
def frameOutcome (c : Setup) (filter : List FilterKey) (bytes : List Byte) : FrameOutcome :=
  let f := readFrame bytes
  if !frameCheck bytes then .crcError
  else if frameMalformed f then .malformed
  else if f.group ≠ c.group then .foreign
  else if f.station = c.station then .duplicateStation
  else if filter.contains (frameKey f) then .duplicate
  else .accepted

/-- Adoption of timing (R155, R156): the unaligned interval is closed, RUN is entered at the adopted
position, and the frame reaches the Settlement Unit in RUN. -/
def adopt (c : Setup) (ch : Channel) (f : GroupFrame) (cap : Option Capture) (id : IntervalId)
    (elapsed : Nat) (s : State) : State :=
  let t := enterRun c id (limitElapsed c elapsed) (earlyClose c .adoption s)
  { t with su := receiveFrame c t.it ch cap f t.su }

/-- An accepted frame in RESYNC reaches the Supply Monitor (R154); a frame from which no timing can be
taken has no effect. -/
def offerTiming (c : Setup) (ch : Channel) (f : GroupFrame) (s : State) : State :=
  match captureOf s.it ch with
  | none => s
  | some k =>
    match adoptionPosition c f k.since with
    | none => s
    | some (id, elapsed) => adopt c ch f (some k) id elapsed s

/-- An ACCEPTED frame is passed on (R74). -/
def passOn (c : Setup) (ch : Channel) (f : GroupFrame) (s : State) : State :=
  match s.supply.op with
  | .run => { s with su := receiveFrame c s.it ch (captureOf s.it ch) f s.su }
  | .resync => offerTiming c ch f s
  | .start => s
  | .hold => s

/-- An ACCEPTED frame (R72, R73, R74). -/
def acceptFrame (c : Setup) (ch : Channel) (f : GroupFrame) (s : State) : State :=
  let t := countGood ch s
  passOn c ch f { t with line := { t.line with filter := enterKey (frameKey f) t.line.filter } }

/-- A frame with the own station number (R75). -/
def duplicateStationHeard (s : State) : State :=
  { s with line := barLine s.line, alerts := raise .duplicateStation s.alerts }

/-- The effect of a complete frame's outcome (R71 to R75). -/
def judgeFrame (c : Setup) (ch : Channel) (bytes : List Byte) (s : State) : State :=
  match frameOutcome c s.line.filter bytes with
  | .crcError => countError ch s
  | .malformed => countError ch s
  | .foreign => s
  | .duplicateStation => duplicateStationHeard s
  | .duplicate => countGood ch s
  | .accepted => acceptFrame c ch (readFrame bytes) s

/-- A reception reaches its expected length (R70, R71). Bytes whose first names no kind are the
MALFORMED case of R70; bytes fewer or more than the kind fixes complete no frame (log 10). -/
def frameCompletes (ch : Channel) (bytes : List Byte) (s : State) : State :=
  match s.config with
  | none => s
  | some c =>
    if (chanOf s.line ch).recv = .receiving then
      match expectedLength (bytes.getD 0 0) with
      | none => malformedEnds ch s
      | some n => if bytes.length = n then judgeFrame c ch bytes (setRecv ch .ready s) else s
    else s

/-- COMPLETE_FRAME (R71). -/
def execCompleteFrame (ch : Channel) (bytes : List Byte) (s : State) :
    Host.Outcome State Fault Refusal :=
  .next (frameCompletes ch bytes (takeDue s))

/-! ## Access to the medium -/

/-- A channel as its CS input changes (R63, R64): in DEFER the gap is abandoned or starts, in BACKOFF
activity returns it to DEFER. -/
def senseChan (active : Bool) (c : Chan) : Chan :=
  let d := { c with cs := active }
  match c.access with
  | .idle => d
  | .defer => { d with gapTimer := gapOnEntry active }
  | .backoff => if active then toDefer d else d
  | .sending => d

/-- The CS input of a channel changes; the same level is no change. -/
def carrierChanges (ch : Channel) (active : Bool) (s : State) : State :=
  if (chanOf s.line ch).cs = active then s
  else { s with line := setChan s.line ch (senseChan active (chanOf s.line ch)) }

/-- CARRIER_SENSE_CHANGE (R63, R64). -/
def execCarrierSenseChange (ch : Channel) (active : Bool) (s : State) :
    Host.Outcome State Fault Refusal :=
  .next (carrierChanges ch active (takeDue s))

/-- The number of values a draw can take with `a` failed attempts: 2^min(a+1, 5) (R64). -/
def backoffRange (a : Nat) : Nat :=
  2 ^ min (a + 1) 5

/-- The copy a channel begins to send, with the timing of that moment (R42, R54, R55). -/
def copyBytes (c : Setup) (op : OpState) (it : IntervalTimer) (e : Entry) : List Byte :=
  match e.kind with
  | .report => reportFrame c e.id e.net it.elapsed
  | .presence => presenceFrame c op it.id (min 65535 (it.elapsed / 64))

/-- The drawn slots have passed (R56, R64, R65). -/
def backoffEnds (ch : Channel) (s : State) : State :=
  match s.config with
  | none => s
  | some c =>
    let k := chanOf s.line ch
    if k.access = .backoff ∧ k.cs = false then
      match s.line.sendList.find? fun e => k.committed == some e.serial with
      | none => s
      | some e =>
        if e.kind = .report ∧ 65535 < s.it.elapsed then
          { s with line := dropLateCopy (isLive s) ch s.line }
        else
          { s with line := setChan s.line ch (beginSending (copyBytes c s.supply.op s.it e) k) }
    else s

/-- A channel as its quiet gap completes (R63, R64): BACKOFF, with this many slots drawn. -/
def enterBackoff (slots : Nat) (c : Chan) : Chan :=
  { c with access := .backoff, gapTimer := none, backoffTimer := some (slots * slotTicks) }

/-- The slots drawn at the next entry to BACKOFF: from 0 to 2^min(a+1, 5) - 1; the draw is free (R64,
log 6). -/
def drawnSlots (s : State) (attempts : Nat) : Nat :=
  Config.backoffDraw s.draws % backoffRange attempts

/-- The quiet gap completes (R63, R64): the channel enters BACKOFF, and a draw of 0 ends it at once. -/
def gapCompletes (ch : Channel) (s : State) : State :=
  let c := chanOf s.line ch
  if c.access = .defer ∧ c.cs = false then
    let slots := drawnSlots s c.attempts
    let t := { s with draws := s.draws + 1, line := setChan s.line ch (enterBackoff slots c) }
    if slots = 0 then backoffEnds ch t else t
  else s

/-- QUIET_GAP (R63, R64). -/
def execQuietGap (ch : Channel) (s : State) : Host.Outcome State Fault Refusal :=
  .next (gapCompletes ch (takeDue s))

/-- BACKOFF_END (R64). -/
def execBackoffEnd (ch : Channel) (s : State) : Host.Outcome State Fault Refusal :=
  .next (backoffEnds ch (takeDue s))

/-- The echo matches a byte that is not the last: the next byte begins at once (R65). -/
def nextByte (ch : Channel) (rest : List Byte) (l : Line) : Line :=
  setChan l ch { chanOf l ch with copy := rest, echoTimer := some echoTicks }

/-- An echo arrives (R65, R66, R68). -/
def echoArrives (ch : Channel) (byte : Byte) (byteError : Bool) (s : State) : State :=
  let c := chanOf s.line ch
  if c.access = .sending then
    match c.copy with
    | [] => s
    | sent :: rest =>
      if byteError || byte != sent then { s with line := attemptFailed (isLive s) ch s.line }
      else if rest.isEmpty then { s with line := attemptSent (isLive s) ch s.line }
      else { s with line := nextByte ch rest s.line }
  else s

/-- ECHO (R65). -/
def execEcho (ch : Channel) (byte : Byte) (byteError : Bool) (s : State) :
    Host.Outcome State Fault Refusal :=
  .next (echoArrives ch byte byteError (takeDue s))

/-- The line after an attempt failed for want of echo (R67): the error counter rises, which may change
the sending set, and the channel continues as after a collision. -/
def missingEchoLine (live : Bool) (ch : Channel) (l : Line) : Line :=
  attemptFailed live ch (lineErrorUp live ch l)

/-- An echo is missing (R67, R68, R72). -/
def echoMissing (ch : Channel) (s : State) : State :=
  let c := chanOf s.line ch
  if c.access = .sending then
    { s with line := missingEchoLine (isLive s) ch s.line,
             alerts := raiseIf (becameDegraded c (errorUp c)) .channel s.alerts }
  else s

/-- MISSING_ECHO (R67). -/
def execMissingEcho (ch : Channel) (s : State) : Host.Outcome State Fault Refusal :=
  .next (echoMissing ch (takeDue s))

/-- The jabber guard trips (R69): the transmission is cut, the channel becomes FAULT, CHANNEL is
latched; the attempt is not counted and the entry keeps its status. -/
def guardTrips (ch : Channel) (s : State) : State :=
  let c := chanOf s.line ch
  if c.access = .sending then
    { s with line := judgeLine (isLive s) (setChan s.line ch { cutChan c with state := .fault }),
             alerts := raise .channel s.alerts }
  else s

/-- JABBER_GUARD (R69). -/
def execJabberGuard (ch : Channel) (s : State) : Host.Outcome State Fault Refusal :=
  .next (guardTrips ch (takeDue s))

end Sys2Proof.Machine
end

