-- ==== Sys2Proof/Machine/HostCommands.lean ====
section
/-! DEFINITION. The commands of the host at the readout port, from LOAD_CONFIG to
DISCARDED_TRANSACTION. Each is judged against the operating state, then its arguments, then acts
(R163). -/

namespace Sys2Proof.Machine

/-! ## LOAD CONFIG -/

/-- The Q that a block is checked against: the retained Q while the retention-valid flag is set
(R145, index 8). -/
def checkedQ (s : State) : Option Nat :=
  if s.supply.retentionValid then s.supply.retainedQ else none

/-- A channel at acceptance (R53, R72, R147): GOOD with error counter 0 if enabled. -/
def acceptChan (enabled : Bool) (c : Chan) : Chan :=
  if enabled then { c with state := .good, errors := 0 } else c

/-- The Netting Engine at acceptance (R28, R147). -/
def acceptNetting (valid : Bool) (n : NettingEngine) : NettingEngine :=
  if valid then n else { n with residueImport := 0, residueExport := 0 }

/-- The band totals at acceptance (R50, R147). -/
def acceptTotals (valid : Bool) (opening : Option Totals) (t : Totals) : Totals :=
  if valid then t else opening.getD t

/-- Acceptance in every block (R147). -/
def acceptConfig (c : Setup) (opening : Option Totals) (s : State) : State :=
  { s with
    config := some c
    supply := { s.supply with retentionValid := true, retainedQ := some c.quantum }
    ne := acceptNetting s.supply.retentionValid s.ne
    it := { s.it with presence := c.presence, length := some (nominalLength c.lengthCode) }
    rb := { s.rb with totals := acceptTotals s.supply.retentionValid opening s.rb.totals }
    line := { s.line with l := acceptChan c.enableL s.line.l, h := acceptChan c.enableH s.line.h }
    su := { s.su with peers := keyedPeers c.station }
    el := { s.el with effectiveCap := some c.baseCap, pendingCap := none } }

/-- START is left (R148): for RUN at the day position, or for RESYNC at (0, 0). -/
def leaveStart (c : Setup) (pos : Option DayPosition) (s : State) : State :=
  match pos with
  | some p => enterRun c p.id p.elapsed (wakeBlocks s)
  | none => enterResync c ⟨0, 0⟩ (wakeBlocks s)

/-- The result of an acceptance (R147). -/
def acceptResult (valid : Bool) (opening : Option Totals) : ResultCode :=
  if valid && opening.isSome then .okTotalsKept else .ok

/-- A block is accepted and START left (R147, R148). -/
def configAccepted (b : List Byte) (s : State) : State :=
  leaveStart (configSetup b) (configDayPosition b) (acceptConfig (configSetup b) (configOpening b) s)

/-- LOAD CONFIG acts (R145); a transaction of fewer than 126 argument bytes is discarded (R161), and
bytes after the last argument byte are ignored (R160). -/
def loadConfigActs (block : List Byte) (s : State) : State :=
  let i := Instr.loadConfig block
  if s.supply.op = .start then
    match configFailure block (checkedQ s) with
    | some n => respond i .badConfig (beBytes 1 n) s
    | none =>
      respond i (acceptResult s.supply.retentionValid (configOpening block)) []
        (holdIfWarned (configAccepted block s))
  else respond i .refusedState [] s

/-- CSN rises (R160, R161): the port is idle, what was left of a response is lost, and the next
transaction is served, unless a reset is held. -/
def csnRises (s : State) : State :=
  { s with port := { Port.reset with serving := !s.supply.resetHeld } }

/-- LOAD_CONFIG (R145 to R148). -/
def execLoadConfig (block : List Byte) (s : State) : Host.Outcome State Fault Refusal :=
  if block.length < 126 then .next (csnRises s)
  else .next (served (loadConfigActs (block.take 126)) (takeDue s))

/-! ## Readings -/

/-- No configuration is in force: START, or HOLD with return state START (R164). -/
def unconfigured (s : State) : Bool :=
  s.supply.op == .start || (s.supply.op == .hold && s.supply.ret == .start)

/-- `n` zero bytes (R174). -/
def zeros (n : Nat) : List Byte :=
  List.replicate n 0

/-- A field that depends on the configuration: 0 in every byte while none is in force (R164, R178). -/
def starred (s : State) (bs : List Byte) : List Byte :=
  if unconfigured s then zeros bs.length else bs

/-- A list in `width`-byte places, unused places 0 (R174). -/
def padded (total : Nat) (bs : List Byte) : List Byte :=
  (bs ++ zeros total).take total

/-- Offsets 5 to 28 of READ STATUS: Interval Timer and current band (R178). -/
def statusIntervals (s : State) : List Byte :=
  starred s
    (idBytes s.it.id ++ beBytes 4 s.it.elapsed ++ beBytes 4 s.it.startPos
      ++ beBytes 4 (s.it.length.getD 0) ++ beInt 1 s.it.trim
      ++ beBytes 1 (flagCode s.it.window.isSome) ++ optIdBytes s.it.window
      ++ beBytes 1 s.it.presence ++ beBytes 1 (bandCode s.rb.band))

/-- Four bytes of one channel (R178). -/
def statusChan (c : Chan) : List Byte :=
  beBytes 1 (chanCode c.state) ++ beBytes 1 c.errors ++ beBytes 1 (accessCode c.access)
    ++ beBytes 1 c.attempts

/-- Six bytes of a send-list entry (R178). -/
def statusEntry (e : Entry) : List Byte :=
  beBytes 1 (kindCode e.kind) ++ idBytes e.id
    ++ beBytes 1 (statusCode e.statusL + 4 * statusCode e.statusH)

/-- Offsets 29 to 63: Line Controller (R178). -/
def statusLine (l : Line) : List Byte :=
  statusChan l.l ++ statusChan l.h ++ beBytes 1 (flagCode l.barred)
    ++ beBytes 1 (outcomeCode l.outcome) ++ beBytes 1 l.sendList.length
    ++ padded 24 (l.sendList.flatMap statusEntry)

/-- Offsets 64 to 86: Settlement Unit (R90, R178). -/
def statusSettlement (u : Settlement) : List Byte :=
  (match u.closing with
    | some f =>
      beBytes 1 1 ++ idBytes f.id ++ beInt 4 f.net ++ beBytes 1 (heardNets u.peers).length
    | none => zeros 10)
  ++ beBytes 1 u.streak ++ beBytes 5 u.summary.m ++ beBytes 5 u.summary.x
  ++ beBytes 1 u.summary.exporters ++ beBytes 1 (flagCode u.summary.valid)

/-- The wired mask in force, as a number. -/
def wiredMask (s : State) : Nat :=
  match s.config with
  | some c => c.wired.toNat
  | none => 0

/-- The CTL outputs as bits 0 to 3 (R114, R178). -/
def ctlBits (s : State) : Nat :=
  flagCode (ctlOutput s 0) + 2 * flagCode (ctlOutput s 1) + 4 * flagCode (ctlOutput s 2)
    + 8 * flagCode (ctlOutput s 3)

/-- Offsets 87 to 113: Export Limiter (R178). -/
def statusLimiter (s : State) : List Byte :=
  let e := s.el
  starred s
    (beBytes 5 (e.effectiveCap.getD 0) ++ beBytes 1 (flagCode e.pendingCap.isSome)
      ++ beBytes 5 (e.pendingCap.getD 0) ++ beBytes 1 (wiredMask s))
  ++ beBytes 1 e.latch.toNat ++ beBytes 1 e.shed.length
  ++ padded 4 (e.shed.flatMap fun k => beBytes 1 k.val)
  ++ beBytes 1 e.overCount ++ beBytes 2 e.underCount ++ beBytes 2 e.holdOff
  ++ beBytes 1 (flagCode e.settling) ++ beBytes 1 (flagCode e.level)
  ++ beBytes 1 (flagCode e.cutoffLatch) ++ beBytes 1 (ctlBits s)

/-- Offsets 114 to 143: Record Store (R138, R178). -/
def statusStore (t : Store) : List Byte :=
  (t.pages.flatMap fun p => beBytes 1 (pageCode p.state)) ++ beBytes 1 t.writePage
    ++ beBytes 1 t.writeSlot ++ beBytes 1 (flagCode (storeBlocked t)) ++ beBytes 1 t.held.length
    ++ padded 10 (t.held.flatMap fun r => beBytes 1 (bandCode r.band) ++ beBytes 1 r.mergeCount)

/-- The 149 bytes of READ STATUS (R164, R178). -/
def statusBytes (s : State) : List Byte :=
  beBytes 1 (opCode s.supply.op) ++ beBytes 1 (opCode s.supply.ret)
    ++ beBytes 1 (flagCode s.supply.retentionValid + 2 * flagCode s.supply.release.isSome)
    ++ beBytes 1 (portCode s.sp.state) ++ beBytes 1 s.sp.missing
    ++ statusIntervals s ++ statusLine s.line ++ statusSettlement s.su ++ statusLimiter s
    ++ statusStore s.store ++ beBytes 2 s.alerts.latches.toNat ++ beBytes 2 s.alerts.mask.toNat
    ++ beBytes 1 (rearmCode s.alerts.rearm)

/-- READ STATUS acts (R164): a snapshot of the state at that moment (R162). -/
def readStatusActs (s : State) : State :=
  respond .readStatus .ok (statusBytes s) s

/-- READ_STATUS (R164). -/
def execReadStatus (s : State) : Host.Outcome State Fault Refusal :=
  .next (served readStatusActs (takeDue s))

/-- Ten bytes of one band's totals. -/
def pairBytes (p : Pair) : List Byte :=
  beBytes 5 p.imp ++ beBytes 5 p.exp

/-- The 65 bytes of READ TOTALS (R165, R178). -/
def totalsBytes (s : State) : List Byte :=
  let t := s.rb.totals
  pairBytes t.b0 ++ pairBytes t.b1 ++ pairBytes t.b2 ++ pairBytes t.b3 ++ pairBytes t.unbanded
    ++ beBytes 5 s.ne.residueImport ++ beBytes 5 s.ne.residueExport
    ++ beBytes 5 (s.supply.retainedQ.getD 0)

/-- READ TOTALS acts (R165). -/
def readTotalsActs (s : State) : State :=
  respond .readTotals .ok (totalsBytes s) s

/-- READ_TOTALS (R165). -/
def execReadTotals (s : State) : Host.Outcome State Fault Refusal :=
  .next (served readTotalsActs (takeDue s))

/-- READ RECORD acts (R137). -/
def readRecordActs (page slot : Byte) (s : State) : State :=
  let i := Instr.readRecord page slot
  if 15 < page.toNat ∨ 15 < slot.toNat then respond i .badArg [] s
  else
    match recordAt s.store page.toNat slot.toNat with
    | some r => respond i .ok (recordBytes r) s
    | none => respond i .empty [] s

/-- READ_RECORD (R137). -/
def execReadRecord (page slot : Byte) (s : State) : Host.Outcome State Fault Refusal :=
  .next (served (readRecordActs page slot) (takeDue s))

/-- The 24 bytes of READ PEER (R166, R178). -/
def peerBytes (p : PeerEntry) : List Byte :=
  beBytes 1 (peerCode p.state)
    ++ beBytes 1 (flagCode p.lastId.isSome + 2 * flagCode p.counted
        + 4 * flagCode p.closing.isSome + 8 * flagCode p.early.isSome)
    ++ optIdBytes p.lastId ++ beBytes 1 (lastChannelCode p.lastChannel) ++ beBytes 1 p.missed
    ++ (match p.closing with
        | some k => beInt 4 k.net ++ beInt 2 k.offset
        | none => zeros 6)
    ++ (match p.early with
        | some k => beInt 4 k.net ++ beBytes 4 k.elapsed ++ beBytes 2 k.delay
        | none => zeros 10)

/-- READ PEER acts (R166). -/
def readPeerActs (station : Byte) (s : State) : State :=
  let i := Instr.readPeer station
  if !isLive s then respond i .refusedState [] s
  else if 15 < station.toNat then respond i .badArg [] s
  else
    match peerOf s.su.peers station.toNat with
    | some p => respond i .ok (peerBytes p) s
    | none => respond i .nothing [] s

/-- READ_PEER (R166). -/
def execReadPeer (station : Byte) (s : State) : Host.Outcome State Fault Refusal :=
  .next (served (readPeerActs station) (takeDue s))

/-! ## The Record Store -/

/-- The store with one page made EMPTY (R134). -/
def emptyPage (n : Nat) (t : Store) : Store :=
  { t with pages := t.pages.set n ⟨.empty, []⟩ }

/-- A SEALED page is released (R134); where it is the page at the write position the held list is
flushed into it (R135). -/
def releaseSealed (n : Nat) (s : State) : State :=
  let t := { s with store := emptyPage n s.store }
  if n = s.store.writePage then
    flushRecords s.store.held { t with store := { t.store with held := [] } }
  else t

/-- RELEASE PAGE acts (R134). -/
def releasePageActs (page : Byte) (s : State) : State :=
  let i := Instr.releasePage page
  if 15 < page.toNat then respond i .badArg [] s
  else
    match s.store.pages[page.toNat]? with
    | none => respond i .badArg [] s
    | some p =>
      match p.state with
      | .sealed => respond i .ok [] (releaseSealed page.toNat s)
      | .filling => respond i .refusedState [] s
      | .empty => respond i .nothing [] s

/-- RELEASE_PAGE (R134). -/
def execReleasePage (page : Byte) (s : State) : Host.Outcome State Fault Refusal :=
  .next (served (releasePageActs page) (takeDue s))

/-! ## The control lines -/

/-- WRITE LINES acts (R112, R113). -/
def writeLinesActs (mode value : Byte) (s : State) : State :=
  let i := Instr.writeLines mode value
  match s.config with
  | none => respond i .refusedState [] s
  | some c =>
    if !isLive s then respond i .refusedState [] s
    else if 15 < value.toNat then respond i .badArg [] s
    else
      match latchMode mode s.el.latch (value.setWidth 4) with
      | none => respond i .badArg [] s
      | some new => respond i .ok [] { s with el := writeLatch c new s.el }

/-- WRITE_LINES (R112). -/
def execWriteLines (mode value : Byte) (s : State) : Host.Outcome State Fault Refusal :=
  .next (served (writeLinesActs mode value) (takeDue s))

/-- RELEASE CUTOFF acts (R118). -/
def releaseCutoffActs (s : State) : State :=
  let i := Instr.releaseCutoff
  if !isLive s then respond i .refusedState [] s
  else if s.el.level then respond i .stillActive [] s
  else if s.el.cutoffLatch then
    respond i .ok [] { s with el := { s.el with cutoffLatch := false, settling := true } }
  else respond i .nothing [] s

/-- RELEASE_CUTOFF (R118). -/
def execReleaseCutoff (s : State) : Host.Outcome State Fault Refusal :=
  .next (served releaseCutoffActs (takeDue s))

/-! ## Alerts -/

/-- READ ALERT acts (R171). -/
def readAlertActs (s : State) : State :=
  match topCause s.alerts with
  | some c => respond .readAlert .ok (beBytes 1 (causeCode c)) s
  | none => respond .readAlert .nothing [] s

/-- READ_ALERT (R171). -/
def execReadAlert (s : State) : Host.Outcome State Fault Refusal :=
  .next (served readAlertActs (takeDue s))

/-- ACK ALERT acts (R172). -/
def ackAlertActs (cause : Byte) (s : State) : State :=
  let i := Instr.ackAlert cause
  match causeOf cause with
  | none => respond i .badArg [] s
  | some c =>
    if latched c s.alerts then respond i .ok [] { s with alerts := clearLatch c s.alerts }
    else respond i .nothing [] s

/-- ACK_ALERT (R172). -/
def execAckAlert (cause : Byte) (s : State) : Host.Outcome State Fault Refusal :=
  .next (served (ackAlertActs cause) (takeDue s))

/-- The mask SET MASK leaves: bits 0 to 8 of the argument, SUPPLY unmasked (R169, R178). -/
def newMask (mask : BitVec 16) : BitVec 9 :=
  mask.setWidth 9 &&& ~~~1#9

/-- SET MASK acts (R169). -/
def setMaskActs (mask : BitVec 16) (s : State) : State :=
  let i := Instr.setMask mask
  if 512 ≤ mask.toNat then respond i .badArg [] s
  else respond i .ok [] { s with alerts := { s.alerts with mask := newMask mask } }

/-- SET_MASK (R169). -/
def execSetMask (mask : BitVec 16) (s : State) : Host.Outcome State Fault Refusal :=
  .next (served (setMaskActs mask) (takeDue s))

/-! ## Timing and channels -/

/-- The interval in progress is closed and a new one begins at the preset position, in RUN (R36, R37,
R44): from RESYNC this is an entry to RUN (R43). -/
def presetPosition (c : Setup) (id : IntervalId) (elapsed : Nat) (s : State) : State :=
  let t := earlyClose c .setDay s
  if s.supply.op = .run then beginInterval c id elapsed (bandFor c.calendar id.iod) t
  else enterRun c id elapsed t

/-- SET DAY POSITION acts (R44). -/
def setDayPositionActs (day iod : BitVec 16) (elapsed : BitVec 32) (s : State) : State :=
  let i := Instr.setDayPosition day iod elapsed
  match s.config with
  | none => respond i .refusedState [] s
  | some c =>
    if !isLive s then respond i .refusedState [] s
    else if perDay c.lengthCode ≤ iod.toNat ∨ nominalLength c.lengthCode ≤ elapsed.toNat then
      respond i .badArg [] s
    else respond i .ok [] (presetPosition c ⟨day.toNat, iod.toNat⟩ elapsed.toNat s)

/-- SET_DAY_POSITION (R44). -/
def execSetDayPosition (day iod : BitVec 16) (elapsed : BitVec 32) (s : State) :
    Host.Outcome State Fault Refusal :=
  .next (served (setDayPositionActs day iod elapsed) (takeDue s))

/-- A channel enabled (R76). -/
def enableChan (c : Chan) : Chan :=
  { toIdleFresh c with state := .good, errors := 0, recv := .waitQuiet }

/-- A channel disabled (R76): a copy in SENDING is cut, a reception discarded. -/
def disableChan (c : Chan) : Chan :=
  { toIdleFresh c with state := .off, recv := .off }

/-- The action has something to do: ENABLE on OFF or FAULT, DISABLE on any but OFF (R76). -/
def channelActs (enable : Bool) (st : ChanState) : Bool :=
  if enable then st == .off || st == .fault else st != .off

/-- The channel changes and the sending set with it (R59, R60, R76). -/
def switchChannel (ch : Channel) (enable : Bool) (s : State) : State :=
  let c := chanOf s.line ch
  { s with
    line := judgeLine (isLive s) (setChan s.line ch (if enable then enableChan c else disableChan c)) }

/-- ENABLE CHANNEL acts (R76). -/
def enableChannelActs (channel action : Byte) (s : State) : State :=
  let i := Instr.enableChannel channel action
  if !isLive s then respond i .refusedState [] s
  else
    match channelOf channel, actionOf action with
    | some ch, some enable =>
      if channelActs enable (chanOf s.line ch).state then
        respond i .ok [] (switchChannel ch enable s)
      else respond i .nothing [] s
    | _, _ => respond i .badArg [] s

/-- ENABLE_CHANNEL (R76). -/
def execEnableChannel (channel action : Byte) (s : State) : Host.Outcome State Fault Refusal :=
  .next (served (enableChannelActs channel action) (takeDue s))

/-- The part goes from RUN to RESYNC at the command (R157). -/
def resyncFromRun (c : Setup) (s : State) : State :=
  let t := earlyClose c .resync s
  enterResync c (succId (perDay c.lengthCode) s.it.id)
    { t with su := clearUnit t.su, el := handCap c.baseCap t.el,
             line := { t.line with filter := [] } }

/-- RESYNC acts (R157). -/
def resyncActs (s : State) : State :=
  match s.config with
  | none => respond .resync .refusedState [] s
  | some c =>
    if s.supply.op = .run then respond .resync .ok [] (resyncFromRun c s)
    else respond .resync .refusedState [] s

/-- RESYNC (R157). -/
def execResync (s : State) : Host.Outcome State Fault Refusal :=
  .next (served resyncActs (takeDue s))

/-! ## Other transactions -/

/-- The port after a command byte that names no command (R161): the result on the next byte, then
everything ignored until CSN rises. A code that names a command is no such event. -/
def unknownActs (code : Byte) (s : State) : State :=
  if (argumentBytes code).isNone then
    { s with port := { txn := .ignoring, taken := [code],
                       response := some [resultByte .unknownCommand], serving := true,
                       csnLow := true } }
  else s

/-- UNKNOWN_COMMAND (R161). -/
def execUnknownCommand (code : Byte) (s : State) : Host.Outcome State Fault Refusal :=
  .next (served (unknownActs code) s)

/-- A transaction has begun and the port has taken these bytes (R160): it waits for the command byte, or
for argument bytes. Bytes that make a command act are that command's own row. -/
def transactionBegins (taken : List Byte) (s : State) : State :=
  if notYetActing taken then
    { s with port := { txn := if taken.isEmpty then .takingCommand else .takingArguments,
                       taken := taken, response := none, serving := true, csnLow := true } }
  else s

/-- DISCARDED_TRANSACTION (R160, R161). -/
def execDiscardedTransaction (csn : CsnEvent) (s : State) : Host.Outcome State Fault Refusal :=
  match csn with
  | .begun taken => .next (served (transactionBegins taken) s)
  | .beforeActing _ => .next (csnRises s)
  | .afterwards => .next (csnRises s)

end Sys2Proof.Machine
end

