-- ==== Sys2Proof/Machine/Intervals.lean ====
section
/-! DEFINITION. The commands of the Interval Timer: COUNT_COMPLETE_BOUNDARY, UNALIGNED_BOUNDARY,
WINDOW_CLOSE. -/

namespace Sys2Proof.Machine

/-- COUNT_COMPLETE_BOUNDARY (R34): in RUN, with the block of the interval's last set closed first
(R20, R31). -/
def execCountCompleteBoundary (s : State) : Host.Outcome State Fault Refusal :=
  match s.config with
  | none => .next s
  | some c =>
    if countComplete s && s.supply.op == .run then .next (countBoundary c (takeDueBlock c s))
    else .next s

/-- UNALIGNED_BOUNDARY (R35): in RESYNC, with the block of the interval's last set closed first
(R20, R31). -/
def execUnalignedBoundary (s : State) : Host.Outcome State Fault Refusal :=
  match s.config with
  | none => .next s
  | some c =>
    if countComplete s && s.supply.op == .resync then .next (unalignedClose c (takeDueBlock c s))
    else .next s

/-- WINDOW_CLOSE (R38, R39, R61, R91): the elapsed count has reached W. A block that closes with the
same set may close before or after it (R106). -/
def execWindowClose (s : State) : Host.Outcome State Fault Refusal :=
  match s.config with
  | none => .next s
  | some c => .next (takeDueWindow c s)

end Sys2Proof.Machine
end

