-- ==== Sys2Proof/Machine/Measurement.lean ====
section
/-! DEFINITION. The commands of the sample link and of the block: SAMPLE_SET_FRAME, WATCHDOG_EXPIRY,
BLOCK_CLOSE. -/

namespace Sys2Proof.Machine

/-- A frame is no arrival (R1): it is not valid, the port is IDLE, or its SFRM was asserted while the
port was IDLE. -/
def noArrival (bytes : List Byte) (partialBits : Nat) (sfrmInIdle : Bool) (p : SamplePort) : Bool :=
  p.state == .idle || sfrmInIdle || !sampleFrameValid bytes partialBits

/-- SFRM is released (R1, R4 to R7). -/
def sampleArrives (bytes : List Byte) (partialBits : Nat) (sfrmInIdle : Bool) (s : State) : State :=
  match s.config with
  | none => s
  | some c => if noArrival bytes partialBits sfrmInIdle s.sp then s else takeFrame c bytes s

/-- SAMPLE_SET_FRAME (R1 to R7). -/
def execSampleSetFrame (bytes : List Byte) (partialBits : Nat) (sfrmInIdle : Bool) (s : State) :
    Host.Outcome State Fault Refusal :=
  .next (sampleArrives bytes partialBits sfrmInIdle (takeDue s))

/-- The Sample Port after the missing set of an expiry (R8): a number expected advances, and the
watchdog runs for 2560 ticks. -/
def afterExpiry (p : SamplePort) : SamplePort :=
  { p with expected := p.expected.map (· + 1), watchdog := some 2560 }

/-- The watchdog expires (R8); while it is disarmed nothing does. -/
def watchdogExpires (s : State) : State :=
  match s.config with
  | none => s
  | some c =>
    if s.sp.state != .idle && s.sp.watchdog.isSome then
      let t := missingSet c s
      { t with sp := afterExpiry t.sp }
    else s

/-- WATCHDOG_EXPIRY (R8, R10, R12). -/
def execWatchdogExpiry (s : State) : Host.Outcome State Fault Refusal :=
  .next (watchdogExpires (takeDue s))

/-- The block that has filled, or that holds the interval's last set, closes (R19, R20). -/
def blockCloses (s : State) : State :=
  match s.config with
  | none => s
  | some c => takeDueBlock c s

/-- BLOCK_CLOSE (R19 to R26, R48, R50, R105 to R110). -/
def execBlockClose (s : State) : Host.Outcome State Fault Refusal :=
  .next (blockCloses s)

end Sys2Proof.Machine
end

