-- ==== Sys2Proof/Machine/PowerSupply.lean ====
section
/-! DEFINITION. The commands of the CUTOFF, PFW and RESETN inputs: CUTOFF_SAMPLE, HOLD_ENTRY,
PFW_INACTIVE, PFW_ACTIVE_IN_HOLD, RELEASE_TIMER, POWER_ON_RESET, RESETN. -/

namespace Sys2Proof.Machine

/-- The filter takes a sample; a change of the filtered level to active sets the cutoff latch with its
further effects (R116, R117). -/
def sampleLimiter (sample live : Bool) (e : Limiter) : Limiter :=
  if levelChanges sample e && sample then setCutoff live (filterSample sample e)
  else filterSample sample e

/-- The alerts of one CUTOFF sample (R117, R168): a change to inactive arms the re-arm state, and
CUTOFF is raised while the level is active. -/
def sampleAlerts (sample : Bool) (e : Limiter) (a : Alerts) : Alerts :=
  if levelChanges sample e then (if sample then raiseCutoff a else rearmCutoff a)
  else if e.level then raiseCutoff a
  else a

/-- CUTOFF is sampled (R116, R117, R168). -/
def cutoffSampled (sample : Bool) (s : State) : State :=
  { s with el := sampleLimiter sample (isLive s) s.el, alerts := sampleAlerts sample s.el s.alerts }

/-- An event of an input pin reaches the part: while a reset is held it has no effect (R143). -/
def unlessHeld (f : State → State) (s : State) : State :=
  if s.supply.resetHeld then s else f s

/-- CUTOFF_SAMPLE (R116): from the end of either reset. -/
def execCutoffSample (level : Bool) (s : State) : Host.Outcome State Fault Refusal :=
  .next (unlessHeld (cutoffSampled level) (takeDue s))

/-- PFW is active in START, RUN or RESYNC (R149); in HOLD the row is PFW_ACTIVE_IN_HOLD. -/
def pfwActive (pfwStill : Bool) (s : State) : State :=
  if s.supply.op = .hold then s else enterHold pfwStill s

/-- HOLD_ENTRY (R149, R150). -/
def execHoldEntry (pfwStill : Bool) (s : State) : Host.Outcome State Fault Refusal :=
  .next (unlessHeld (pfwActive pfwStill) (takeDue s))

/-- PFW_INACTIVE (R151): in HOLD the release timer starts from 0 as PFW becomes inactive. -/
def execPfwInactive (s : State) : Host.Outcome State Fault Refusal :=
  if s.supply.op = .hold ∧ s.supply.pfw = true then
    .next { s with supply := { s.supply with pfw := false, release := some releaseTicks } }
  else .next s

/-- PFW_ACTIVE_IN_HOLD (R151): the release timer stops. -/
def execPfwActiveInHold (s : State) : Host.Outcome State Fault Refusal :=
  if s.supply.op = .hold then
    .next { s with supply := { s.supply with pfw := true, release := none } }
  else .next s

/-- RELEASE_TIMER (R152): the release timer reaches 819,200 ticks. -/
def execReleaseTimer (s : State) : Host.Outcome State Fault Refusal :=
  if s.supply.op = .hold ∧ s.supply.release.isSome = true then
    .next (holdIfWarned (leaveHold s))
  else .next s

/-- POWER_ON_RESET (R143, R158). -/
def execPowerOnReset (phase : ResetPhase) (s : State) : Host.Outcome State Fault Refusal :=
  .next (resetPhase phase (clearedPart s))

/-- A store that is blocked at the end of RESETN latches STORE_BLOCKED (R140). -/
def alertBlocked (s : State) : State :=
  { s with alerts := raiseIf (!s.supply.resetHeld && storeBlocked s.store) .storeBlocked s.alerts }

/-- RESETN, held or ended (R140, R143, R158). -/
def resetPart (phase : ResetPhase) (s : State) : State :=
  alertBlocked (resetPhase phase (retainedPart s))

/-- RESETN (R143). -/
def execResetn (phase : ResetPhase) (s : State) : Host.Outcome State Fault Refusal :=
  .next (resetPart phase (takeDue s))

end Sys2Proof.Machine
end

