-- ==== Sys2Proof/Machine/Dispatch.lean ====
section
/-! DEFINITION. The meaning of every command: one arm for each constructor of Instr. -/

namespace Sys2Proof.Machine

def exec (i : Instr) (s : State) : Host.Outcome State Fault Refusal :=
  match i with
  | .sampleSetFrame bytes partialBits sfrmInIdle => Sys2Proof.Machine.execSampleSetFrame bytes partialBits sfrmInIdle s
  | .watchdogExpiry => Sys2Proof.Machine.execWatchdogExpiry s
  | .blockClose => Sys2Proof.Machine.execBlockClose s
  | .countCompleteBoundary => Sys2Proof.Machine.execCountCompleteBoundary s
  | .unalignedBoundary => Sys2Proof.Machine.execUnalignedBoundary s
  | .windowClose => Sys2Proof.Machine.execWindowClose s
  | .receptionStart ch => Sys2Proof.Machine.execReceptionStart ch s
  | .completeFrame ch bytes => Sys2Proof.Machine.execCompleteFrame ch bytes s
  | .malformedReception ch => Sys2Proof.Machine.execMalformedReception ch s
  | .receptionTimeout ch => Sys2Proof.Machine.execReceptionTimeout ch s
  | .receiveReady ch => Sys2Proof.Machine.execReceiveReady ch s
  | .carrierSenseChange ch active => Sys2Proof.Machine.execCarrierSenseChange ch active s
  | .quietGap ch => Sys2Proof.Machine.execQuietGap ch s
  | .backoffEnd ch => Sys2Proof.Machine.execBackoffEnd ch s
  | .echo ch byte byteError => Sys2Proof.Machine.execEcho ch byte byteError s
  | .missingEcho ch => Sys2Proof.Machine.execMissingEcho ch s
  | .jabberGuard ch => Sys2Proof.Machine.execJabberGuard ch s
  | .cutoffSample level => Sys2Proof.Machine.execCutoffSample level s
  | .holdEntry pfwStill => Sys2Proof.Machine.execHoldEntry pfwStill s
  | .pfwInactive => Sys2Proof.Machine.execPfwInactive s
  | .releaseTimer => Sys2Proof.Machine.execReleaseTimer s
  | .powerOnReset phase => Sys2Proof.Machine.execPowerOnReset phase s
  | .resetn phase => Sys2Proof.Machine.execResetn phase s
  | .loadConfig block => Sys2Proof.Machine.execLoadConfig block s
  | .readStatus => Sys2Proof.Machine.execReadStatus s
  | .readTotals => Sys2Proof.Machine.execReadTotals s
  | .readRecord page slot => Sys2Proof.Machine.execReadRecord page slot s
  | .releasePage page => Sys2Proof.Machine.execReleasePage page s
  | .writeLines mode value => Sys2Proof.Machine.execWriteLines mode value s
  | .releaseCutoff => Sys2Proof.Machine.execReleaseCutoff s
  | .readAlert => Sys2Proof.Machine.execReadAlert s
  | .ackAlert cause => Sys2Proof.Machine.execAckAlert cause s
  | .setMask mask => Sys2Proof.Machine.execSetMask mask s
  | .setDayPosition day iod elapsed => Sys2Proof.Machine.execSetDayPosition day iod elapsed s
  | .readPeer station => Sys2Proof.Machine.execReadPeer station s
  | .enableChannel channel action => Sys2Proof.Machine.execEnableChannel channel action s
  | .resync => Sys2Proof.Machine.execResync s
  | .unknownCommand code => Sys2Proof.Machine.execUnknownCommand code s
  | .discardedTransaction csn => Sys2Proof.Machine.execDiscardedTransaction csn s
  | .pfwActiveInHold => Sys2Proof.Machine.execPfwActiveInHold s

end Sys2Proof.Machine
end

