-- ==== Sys2Proof/Machine/Pins.lean ====
section
/-! DEFINITION. The output pins, each a function of the state (R52, R114, R160, R170), the serial byte of the
two channels (R52), and the rows that the levels on the inputs of the sample link and of the readout port
give (R1, R160). -/

namespace Sys2Proof.Machine

/-! ## The serial byte of a channel -/

/-- The ten bit times of a byte on TXD or RXD (R52): the start bit, eight data bits, the least significant
first, and the stop bit. `true` is the stop level, and a data bit of 1 has that level (log 26). -/
def serialBits (b : Byte) : List Bool :=
  false :: ((List.range 8).map b.getLsbD ++ [true])

/-- The byte whose bits, the least significant first, are these. -/
def byteOfBits (bits : List Bool) : Byte :=
  bits.foldr (fun bit v => (v <<< 1) ||| (if bit then 1#8 else 0#8)) 0#8

/-- What the ten bit times of a byte on RXD carry: the byte's value, and whether its stop bit is not at
the stop level, which is a byte error (R52). -/
def receiveSerial (bits : List Bool) : Byte × Bool :=
  (byteOfBits ((bits.drop 1).take 8), !bits.getD 9 true)

/-! ## The clocked inputs SDAT and MOSI -/

/-- The levels of a data input at the rising edges of its clock (R1, R160). Each pair holds the levels of clock
and data at one moment; the first argument is the clock's level before them. -/
def risingSamples : Bool → List (Bool × Bool) → List Bool
  | _, [] => []
  | was, (clock, data) :: rest =>
    if clock && !was then data :: risingSamples clock rest else risingSamples clock rest

/-- The byte whose bits, the most significant first, are these (R1, R160). -/
def byteMsbFirst (bits : List Bool) : Byte :=
  byteOfBits bits.reverse

/-- One more bit is clocked in: it completes a byte, or joins the partial byte. -/
def clockBit (t : List Byte × List Bool) (bit : Bool) : List Byte × List Bool :=
  if t.2.length < 7 then (t.1, t.2 ++ [bit]) else (t.1 ++ [byteMsbFirst (t.2 ++ [bit])], [])

/-- The whole bytes that bits give, and the bits of the partial byte that remains (R1, R160). -/
def clockedIn (bits : List Bool) : List Byte × List Bool :=
  bits.foldl clockBit ([], [])

/-- The row of a sample-set frame by the levels on SCLK and SDAT while SFRM is asserted (R1): `sclk` is the level
of SCLK as SFRM is asserted. -/
def sampleFrameOf (sclk : Bool) (levels : List (Bool × Bool)) (sfrmInIdle : Bool) : Instr :=
  let t := clockedIn (risingSamples sclk levels)
  .sampleSetFrame t.1 t.2.length sfrmInIdle

/-- The row of a transaction by the levels on SCK and MOSI while CSN is low (R160), SCK idling low: the whole bytes
taken make it, and a byte that CSN cuts off counts for nothing (R161). -/
def transactionOf (levels : List (Bool × Bool)) : Instr :=
  transaction (clockedIn (risingSamples false levels)).1

/-! ## Group line -/

/-- LTXEN and HTXEN: active exactly in SENDING (R52, R65). -/
def txenPin (s : State) (ch : Channel) : Bool :=
  (chanOf s.line ch).access == .sending

/-- LTXD and HTXD in the `n`-th bit time after the byte being sent began: in SENDING the bits of that byte
and then the stop level, and otherwise the stop level (R52, R65). -/
def txdPin (s : State) (ch : Channel) (n : Nat) : Bool :=
  if txenPin s ch then
    match (chanOf s.line ch).copy with
    | [] => true
    | b :: _ => (serialBits b).getD n true
  else true

/-! ## Control lines and alert -/

/-- CTL0 to CTL3: high while the line is active (R114). -/
def ctlPin (s : State) (k : Fin 4) : Bool :=
  ctlOutput s k

/-- ALERTN is driven low exactly while a latched cause is unmasked, and otherwise released (R170). -/
def alertnLow (s : State) : Bool :=
  alertAsserted s.alerts

/-! ## Readout port -/

/-- The byte on MISO at a position of the transaction, and `none` where MISO is not driven (R160, R178):
nothing while CSN is high; in a transaction that is served, fill bytes while the command and its arguments
are clocked, then the response, then fill bytes. -/
def misoByte (p : Port) (n : Nat) : Option Byte :=
  if !p.csnLow then none
  else if !p.serving then Config.unservedMiso n
  else
    match p.txn with
    | .idle => none
    | .takingCommand => some 0x00#8
    | .takingArguments => some 0x00#8
    | .responding => some (((p.taken.map fun _ => 0x00#8) ++ p.response.getD []).getD n 0x00#8)
    | .ignoring => some (((p.taken.map fun _ => 0x00#8) ++ p.response.getD []).getD n 0x00#8)

/-- The level on MISO at a bit of the transaction, each byte sent most significant bit first (R160). -/
def misoPin (s : State) (n : Nat) : Option Bool :=
  (misoByte s.port (n / 8)).map fun b => b.getMsbD (n % 8)

/-- How often a clock falls over these levels; the first argument is its level before them. -/
def fallingEdges : Bool → List Bool → Nat
  | _, [] => 0
  | was, clock :: rest => (if was && !clock then 1 else 0) + fallingEdges clock rest

/-- The level on MISO after these levels of SCK since CSN fell, SCK idling low: it changes on the falling edges
of SCK, each of which puts out the next bit (R160). The first bit stands from CSN's fall, so that each rising
edge finds its own bit (log 8). -/
def misoAfter (s : State) (sck : List Bool) : Option Bool :=
  misoPin s (fallingEdges false sck)

end Sys2Proof.Machine
end

