-- ==== Sys2Proof/Safety.lean ====
section
/-! DEFINITION. The laws of the device: what every reachable state keeps, each as a predicate on
states. The manual calls several of them "the law of the device". -/

namespace Sys2Proof.Machine

/-- The command completes and brings the part to this state. -/
def Completes (i : Instr) (s t : State) : Prop :=
  exec i s = .next t

/-- The readout port holds these MOSI bytes of a command that has acted, and responds with a result
code and these bytes; everything else is as in the given state (R160). -/
def answered (taken : List Byte) (result : Byte) (data : List Byte) (s : State) : State :=
  { s with
    port :=
      { txn := .responding, taken := taken, response := some (result :: data), serving := true
        csnLow := true } }

/-- The SOLO record of an early close in RUN (R36, R89, R101), and the unsettled one in RESYNC (R102):
the figures as they stand once the open block and the open window are closed. -/
def earlyRecord (c : Setup) (s : State) (supply unaligned solo : Bool) : Record :=
  let net : Int := (s.rb.impQuanta : Int) - s.rb.expQuanta
  { firstId := s.it.id, lastId := s.it.id, band := s.rb.band
    flags :=
      recordFlags
        { id := s.it.id, length := s.it.elapsed, trim := 0, impQuanta := s.rb.impQuanta,
          expQuanta := s.rb.expQuanta, net := net, saturated := s.rb.saturated, band := s.rb.band,
          held := s.ne.heldSeen, fault := s.ne.faultSeen, curtailed := s.el.curtailedSeen,
          cutoff := s.el.cutoffSeen, short := true }
        { supply := supply, unaligned := unaligned, solo := solo, incomplete := false,
          txFailed := false, listenOnly := s.line.barred }
    mergeCount := 1, heard := 1#16 <<< c.station, expected := 0, trim := 0,
    impQuanta := s.rb.impQuanta, expQuanta := s.rb.expQuanta, share := 0, m := net.toNat,
    x := (-net).toNat }

/-- A property that every step keeps: from every state that has it, a step that answers a next state
answers one that has it. -/
def KeptByStep (p : State → Prop) : Prop :=
  ∀ s t : State, p s → step s = .next t → p t

/-- The commands that begin by taking what the last set has made due (log 2). -/
def takesDueFirst : Instr → Bool
  | .sampleSetFrame _ _ _ => true
  | .watchdogExpiry => true
  | .blockClose => false
  | .countCompleteBoundary => false
  | .unalignedBoundary => false
  | .windowClose => false
  | .receptionStart _ => true
  | .completeFrame _ _ => true
  | .malformedReception _ => true
  | .receptionTimeout _ => true
  | .receiveReady _ => true
  | .carrierSenseChange _ _ => true
  | .quietGap _ => true
  | .backoffEnd _ => true
  | .echo _ _ _ => true
  | .missingEcho _ => true
  | .jabberGuard _ => true
  | .cutoffSample _ => true
  | .holdEntry _ => true
  | .pfwInactive => false
  | .releaseTimer => false
  | .powerOnReset _ => false
  | .resetn _ => true
  | .loadConfig block => decide (126 ≤ block.length)
  | .readStatus => true
  | .readTotals => true
  | .readRecord _ _ => true
  | .releasePage _ => true
  | .writeLines _ _ => true
  | .releaseCutoff => true
  | .readAlert => true
  | .ackAlert _ => true
  | .setMask _ => true
  | .setDayPosition _ _ _ => true
  | .readPeer _ => true
  | .enableChannel _ _ => true
  | .resync => true
  | .unknownCommand _ => false
  | .discardedTransaction _ => false
  | .pfwActiveInHold => false

/-! ## Record Store -/

/-- A page's records are as many as its state says (R126): none while EMPTY, sixteen while SEALED, one
to fifteen while FILLING. -/
def PageFits (p : Page) : Prop :=
  match p.state with
  | .empty => p.records.length = 0
  | .sealed => p.records.length = 16
  | .filling => 1 ≤ p.records.length ∧ p.records.length ≤ 15

/-- The page at the write position is EMPTY or SEALED with slot 0 next, or FILLING with as many records
as the slot's number (R127); every other page is EMPTY or SEALED (R126: at most one is FILLING). -/
def WritePositionFits (t : Store) : Prop :=
  ∀ n p, t.pages[n]? = some p →
    if n = t.writePage then
      (if p.state = .filling then p.records.length = t.writeSlot else t.writeSlot = 0)
    else p.state ≠ .filling

/-- The pages' canonical form (R126, R127): sixteen pages that fit their states, and a write position
that fits its page. -/
def PagesLaw (t : Store) : Prop :=
  t.pages.length = 16 ∧ t.writePage < 16 ∧ (∀ p ∈ t.pages, PageFits p) ∧ WritePositionFits t

/-- The Record Store's canonical form (R126, R127, R130): the pages', at most one held record for each
band code, and no held record while the store is open. -/
def StoreLaw (t : Store) : Prop :=
  PagesLaw t ∧ (t.held.map (·.band)).Nodup ∧ (t.held ≠ [] → storeBlocked t = true)

/-! ## Export Limiter -/

/-- The law of the shed stack (R109, R111): it holds no line twice, only lines whose host latch bit
is 1, and nothing while the cutoff latch is set. -/
def ShedLaw (e : Limiter) : Prop :=
  e.shed.Nodup ∧ (∀ k ∈ e.shed, e.latch.getLsbD k = true) ∧ (e.cutoffLatch = true → e.shed = [])

/-- A cap lies between the base cap and the ceiling cap. -/
def CapBetween (c : Setup) (cap : Option Nat) : Prop :=
  ∀ n, cap = some n → c.baseCap ≤ n ∧ n ≤ c.ceilingCap

/-- The law of the cap (R105): under an accepted configuration the effective cap and a pending cap lie
between the base cap and the ceiling cap. -/
def CapLaw (s : State) : Prop :=
  ∀ c, s.config = some c →
    c.baseCap ≤ c.ceilingCap ∧ CapBetween c s.el.effectiveCap ∧ CapBetween c s.el.pendingCap

/-! ## Line Controller -/

/-- A channel that has left IDLE is GOOD or DEGRADED, so that a channel in FAULT or OFF keeps its TXEN
inactive (R53); an OFF channel's receiver is off (R52, R70), and in SENDING it is discarding (R65). -/
def ChanLaw (c : Chan) : Prop :=
  (c.access ≠ .idle → c.state = .good ∨ c.state = .degraded)
    ∧ (c.state = .off → c.recv = .off)
    ∧ (c.access = .sending → c.recv = .discarding)

/-- A list of entries has every REPORT before every PRESENCE (before R57). -/
def ReportsFirst (es : List Entry) : Prop :=
  es.Pairwise fun a b => a.kind = .presence → b.kind = .presence

/-- The line is quiet in START and HOLD (R52, R77): both channels IDLE with their receivers off, and an
empty send list. -/
def LineQuiet (s : State) : Prop :=
  isLive s = false →
    s.line.l.access = .idle ∧ s.line.h.access = .idle ∧ s.line.l.recv = .off ∧ s.line.h.recv = .off
      ∧ s.line.sendList = []

/-- The law of the Line Controller: the channels' law, a send list of at most four entries in list
order (R57, R58), an empty list with both channels IDLE while transmit is barred (R75), and a quiet
line in START and HOLD. -/
def LineLaw (s : State) : Prop :=
  ChanLaw s.line.l ∧ ChanLaw s.line.h ∧ s.line.sendList.length ≤ 4 ∧ ReportsFirst s.line.sendList
    ∧ (s.line.barred = true →
        s.line.sendList = [] ∧ s.line.l.access = .idle ∧ s.line.h.access = .idle)
    ∧ LineQuiet s

/-- What a channel that has left IDLE is committed to (R62): an entry that, while it is in the list, is
PENDING on the channel; and in DEFER and BACKOFF it is in the list (R58, R63). -/
def CommitmentFits (l : Line) (ch : Channel) : Prop :=
  ((chanOf l ch).access ≠ .idle →
      ∃ n, (chanOf l ch).committed = some n ∧ n < l.nextSerial
        ∧ ∀ e ∈ l.sendList, e.serial = n → statusOf e ch = .pending)
    ∧ ((chanOf l ch).access = .defer ∨ (chanOf l ch).access = .backoff →
        inList l.sendList (chanOf l ch).committed = true)

/-- A channel has nothing left to do at once: outside the sending set it is IDLE or ends an attempt
(R59); inside it, it is IDLE only if no entry is PENDING for it, while transmit is not barred (R62). -/
def ChanServed (live : Bool) (l : Line) (ch : Channel) : Prop :=
  (inSendingSet l ch = false → (chanOf l ch).access = .idle ∨ (chanOf l ch).access = .sending)
    ∧ (live = true → l.barred = false → inSendingSet l ch = true → (chanOf l ch).access = .idle →
        ∀ e ∈ l.sendList, statusOf e ch ≠ .pending)

/-- The law of the send list: no entry that R60 makes leave stays in it, both channels are served
(R59, R62) and committed as R62 gives, and entries are told apart by their serial numbers (log 14). -/
def SettledLaw (s : State) : Prop :=
  CommitmentFits s.line .l ∧ CommitmentFits s.line .h
    ∧ ChanServed (isLive s) s.line .l ∧ ChanServed (isLive s) s.line .h
    ∧ ((inSendingSet s.line .l = true ∨ inSendingSet s.line .h = true) →
        ∀ e ∈ s.line.sendList, entryDone s.line e = false)
    ∧ (s.line.sendList.map (·.serial)).Nodup
    ∧ (∀ e ∈ s.line.sendList, e.serial < s.line.nextSerial)
    ∧ LineQuiet s

/-! ## Settlement Unit -/

/-- The law of the peer view (R78, R104): under an accepted configuration it holds one entry for each
station number other than the part's own, and none for its own; without a configuration its fifteen entries
are ABSENT and cleared, with no key (log 11). -/
def PeerLaw (s : State) : Prop :=
  (∀ c, s.config = some c →
    s.su.peers.map (·.station) = ((List.range 16).filter fun n => n != c.station).map some)
  ∧ (s.config = none → s.su.peers = List.replicate 15 PeerEntry.reset)

/-! ## Netting Engine and retention -/

/-- The residues are below Q (R23, R24), for the Q in force and for the retained Q, which is the same
(R145, R147); the retention-valid flag stands with a retained Q. -/
def ResidueLaw (s : State) : Prop :=
  (∀ c, s.config = some c → s.supply.retentionValid = true ∧ s.supply.retainedQ = some c.quantum)
    ∧ (s.supply.retentionValid = true →
        ∃ q, s.supply.retainedQ = some q ∧ s.ne.residueImport < q ∧ s.ne.residueExport < q)

/-! ## Operating state -/

/-- A channel that neither sends nor receives (R52): OFF, IDLE, its receiver off. -/
def ChanSilent (c : Chan) : Prop :=
  c.state = .off ∧ c.access = .idle ∧ c.recv = .off

/-- The law of a part held in reset (R143, R161): it has no configuration, stands in START, takes no sample
frame, is silent on both channels, has no cause latched and serves no transaction. -/
def ResetLaw (s : State) : Prop :=
  s.supply.resetHeld = true →
    s.config = none ∧ s.supply.op = .start ∧ s.sp.state = .idle ∧ ChanSilent s.line.l
      ∧ ChanSilent s.line.h ∧ s.alerts.latches = 0 ∧ s.port.serving = false

/-- The law of the readout port (before R160, R161): a port that serves is idle exactly while CSN is high; one
that does not serve is idle, and either a reset is held or CSN has been low since before the last reset's
end. -/
def PortLaw (s : State) : Prop :=
  (s.port.serving = true → (s.port.csnLow = false ↔ s.port.txn = .idle))
    ∧ (s.port.serving = false →
        s.port.txn = .idle ∧ (s.supply.resetHeld = true ∨ s.port.csnLow = true))

/-- The Sample Port is IDLE, with its watchdog disarmed, exactly in START and HOLD (R3, R14), and the
line is quiet there. -/
def QuietLaw (s : State) : Prop :=
  (s.sp.state = .idle ↔ isLive s = false) ∧ (isLive s = false → s.sp.watchdog = none) ∧ LineQuiet s

/-- RUN and RESYNC are states of an accepted configuration (R144, R148). -/
def ConfiguredLaw (s : State) : Prop :=
  isLive s = true → s.config ≠ none

/-- The window is open exactly while the closing record waits for it, with the same ID, and only in
RUN (R38, R88, R90). -/
def WindowLaw (s : State) : Prop :=
  s.it.window = s.su.closing.map (·.id) ∧ (s.supply.op ≠ .run → s.it.window = none)

/-- The law of the interval in progress (R32, R34, R37 to R39): its length is L plus a trim of -32 to
32, its elapsed count does not pass that length, it began below L, and an open window's W has not been
passed; W lies between 3200 and L/2 (R146). Where no interval is in progress no window is open. -/
def IntervalLaw (s : State) : Prop :=
  (∀ c, s.config = some c →
    3200 ≤ c.window ∧ 2 * c.window ≤ nominalLength c.lengthCode
      ∧ (isLive s = true →
          -32 ≤ s.it.trim ∧ s.it.trim ≤ 32
            ∧ s.it.length = some ((nominalLength c.lengthCode : Int) + s.it.trim).toNat
            ∧ (s.it.elapsed : Int) ≤ (nominalLength c.lengthCode : Int) + s.it.trim
            ∧ s.it.startPos ≤ s.it.elapsed ∧ s.it.startPos < nominalLength c.lengthCode
            ∧ (s.it.window ≠ none → s.it.elapsed ≤ c.window)))
    ∧ (isLive s = true → s.config ≠ none)
    ∧ (isLive s = false → s.it.window = none)

/-- The largest sum of one set's products of one direction (R17). -/
def setBound : Nat := 4831739904

/-- A product lies in the range of R15. -/
def InProductRange (p : Int) : Prop :=
  -1610530817 ≤ p ∧ p ≤ 1610579968

/-- The law of the open block (R15, R19): at most 64 sets, each adding at most the bound of R17 to an
accumulator; the last good products lie in the range of R15, and so do the gains in theirs. -/
def BlockLaw (s : State) : Prop :=
  (∀ c, s.config = some c → c.gain1 ≤ 49151 ∧ c.gain2 ≤ 49151 ∧ c.gain3 ≤ 49151)
    ∧ (isLive s = false → s.ne.blockSets = 0) ∧ s.ne.blockSets ≤ 64
    ∧ (isLive s = true ↔ s.sp.state ≠ .idle) ∧ (isLive s = true → s.config ≠ none)
    ∧ s.ne.accImport ≤ s.ne.blockSets * setBound ∧ s.ne.accExport ≤ s.ne.blockSets * setBound
    ∧ InProductRange s.sp.lastGood.p1 ∧ InProductRange s.sp.lastGood.p2
    ∧ InProductRange s.sp.lastGood.p3

/-- The laws of the Alert Unit: SUPPLY is never masked (R169), and the re-arm state waits exactly while
the filtered CUTOFF level is active (R168). -/
def AlertLaw (s : State) : Prop :=
  s.alerts.mask &&& 1#9 = 0 ∧ (s.alerts.rearm = .waiting ↔ s.el.level = true)

/-- The interval counters and the band totals stay in their ranges (R48, R50). -/
def CounterLaw (s : State) : Prop :=
  s.rb.impQuanta ≤ 2 ^ 31 - 1 ∧ s.rb.expQuanta ≤ 2 ^ 31 - 1
    ∧ ∀ b, (totalsOf s.rb.totals b).imp < 2 ^ 40 ∧ (totalsOf s.rb.totals b).exp < 2 ^ 40

end Sys2Proof.Machine
end

