-- ==== Sys2Proof/WellFormed.lean ====
section
/-! DEFINITION. Which commands can stand for an event of the part: the checks on their operands. -/

namespace Sys2Proof

/-- The bytes of a complete frame are as many as the kind in the first byte fixes (R70). -/
def frameComplete : List Byte → Bool
  | [] => false
  | first :: rest => expectedLength first == some (rest.length + 1)

/-- The operands fit the event: a partial byte has at most seven bits (R1), a complete frame has its
expected length (R70), LOAD CONFIG carries 126 bytes (R177), an unknown command byte names no
command (R161), and a transaction in progress, or one that is discarded, has not acted (R161). -/
def wellFormed : Instr → Bool
  | .sampleSetFrame _ partialBits _ => decide (partialBits < 8)
  | .completeFrame _ bytes => frameComplete bytes
  | .loadConfig block => decide (block.length = 126)
  | .unknownCommand code => (argumentBytes code).isNone
  | .discardedTransaction (.begun taken) => notYetActing taken
  | .discardedTransaction (.beforeActing taken) => notYetActing taken
  | .discardedTransaction .afterwards => true
  | .watchdogExpiry => true
  | .blockClose => true
  | .countCompleteBoundary => true
  | .unalignedBoundary => true
  | .windowClose => true
  | .receptionStart _ => true
  | .malformedReception _ => true
  | .receptionTimeout _ => true
  | .receiveReady _ => true
  | .carrierSenseChange _ _ => true
  | .quietGap _ => true
  | .backoffEnd _ => true
  | .echo _ _ _ => true
  | .missingEcho _ => true
  | .jabberGuard _ => true
  | .cutoffSample _ => true
  | .holdEntry _ => true
  | .pfwInactive => true
  | .releaseTimer => true
  | .powerOnReset _ => true
  | .resetn _ => true
  | .readStatus => true
  | .readTotals => true
  | .readRecord _ _ => true
  | .releasePage _ => true
  | .writeLines _ _ => true
  | .releaseCutoff => true
  | .readAlert => true
  | .ackAlert _ => true
  | .setMask _ => true
  | .setDayPosition _ _ _ => true
  | .readPeer _ => true
  | .enableChannel _ _ => true
  | .resync => true
  | .pfwActiveInHold => true

end Sys2Proof
end

