-- ==== Sys2Proof/Certificates/Slice0/Obligations.lean ====
section
/-! DEFINITION. The statements for the provers, chapter by chapter. A statement about a command gives
the state it leaves as a record update, which is its frame too: a field that is not named is unchanged.
`nothingDue s` says that no block close and no boundary is due; a command given while one is due first takes
it, and a due window close waits for its own row or the next set (`Obligations.WhatIsDueIsTakenFirst`). A
host's row acts while the port serves (`Obligations.TransactionsThatDoNotAct`). -/

open Sys2Proof
open Sys2Proof.Machine

/-! ## The machine -/

/-- One step runs the command at the front of the queue with the queue's rest; on an empty queue
the part idles (the model's own queue, log 4). -/
def Obligations.StepRunsTheFrontCommand : Prop :=
  ∀ s : State,
    (s.pending = [] → step s = .next s)
      ∧ ∀ i rest, s.pending = i :: rest → step s = exec i { s with pending := rest }

/-- Every command, with any operands in any state, completes, and none touches the queue. R163 and
R167 give results and causes where another part would stop; that the queue is left alone, and kept
over both resets, is the model's own choice (log 24, log 19), and so is the completion of rows that
are ill-formed (log 20) or come outside their condition (log 3). -/
def Obligations.EveryCommandCompletes : Prop :=
  ∀ (i : Instr) (s : State), ∃ t, exec i s = .next t ∧ t.pending = s.pending

/-- What the last processed set has made due is taken before any other command acts, the block close
and then the boundary (R20, R31): taking it leaves nothing due, and each command of `takesDueFirst`
acts as from there. A due window close (R38) is taken by its own row or, at the latest, before the
next set is processed, so that a frame, an echo or a HOLD entry of its moment can come first (R61,
R73, R153). The order is the model's (log 2). In RUN and RESYNC an interval is count-complete as its
elapsed count reaches its length (R31), a block is due to close at 64 sets or with the interval's last
set (R19, R20), and an open window as the elapsed count reaches W (R38); with no interval in progress
nothing is due. Taking what is due is BLOCK_CLOSE, then COUNT_COMPLETE_BOUNDARY or UNALIGNED_BOUNDARY, each
with the effect of its own row. -/
def Obligations.WhatIsDueIsTakenFirst : Prop :=
  ∀ s : State,
    nothingDue (takeDue s) = true
      ∧ (nothingDue s = true → takeDue s = s)
      ∧ (s.config = none → takeDue s = s)
      ∧ (∀ c, s.config = some c →
          ∃ u v w, exec .blockClose s = .next u ∧ exec .countCompleteBoundary u = .next v
            ∧ exec .unalignedBoundary v = .next w ∧ takeDue s = w)
      ∧ (∀ i, takesDueFirst i = true → exec i s = exec i (takeDue s))
      ∧ (∀ c t, s.config = some c → IntervalLaw s → s.sp.state ≠ .idle →
          exec .windowClose (takeDue s) = .next t →
          (s.sp.watchdog.isSome = true → exec .watchdogExpiry s = exec .watchdogExpiry t)
            ∧ ∀ bytes : List Byte, bytes.length = 14 → crc8 (bytes.take 13) = bytes.getD 13 0 →
                (s.sp.expected = none ∨ s.sp.expected = some (bytes.getD 0 0)) →
                exec (.sampleSetFrame bytes 0 false) s = exec (.sampleSetFrame bytes 0 false) t)
      ∧ (countComplete s = true ↔
          isLive s = true ∧ ∃ n, s.it.length = some n ∧ n ≤ s.it.elapsed)
      ∧ (blockDue s = true ↔
          isLive s = true ∧ (64 ≤ s.ne.blockSets ∨ countComplete s = true ∧ 0 < s.ne.blockSets))
      ∧ (∀ c, windowDue c s = true ↔
          isLive s = true ∧ s.it.window ≠ none ∧ c.window ≤ s.it.elapsed)
      ∧ (isLive s = true ↔ s.supply.op = .run ∨ s.supply.op = .resync)
      ∧ (nothingDue s = true ↔
          s.config = none ∨ (blockDue s = false ∧ countComplete s = false))

/-- The values after power-on reset that the tables R14, R30, R45, R51, R77, R104, R123, R142,
R159 and R173 state. POWER_ON_RESET (R143), at its end: every value of power-on reset, in START, or
in HOLD with SUPPLY latched where PFW is active; a transaction whose CSN is low then is not served
(R161). While it lasts: the same values, in START, with no transaction served. The queue, the draw
counter and the CS inputs are outside it, and so is CSN, whose level the end of the reset reports
(log 5, log 19). -/
def Obligations.PowerOnResetValues : Prop :=
  (let s := State.reset
  s.config = none
    ∧ s.sp = ⟨.idle, none, 0, ⟨0, 0, 0⟩, none⟩
    ∧ s.ne = ⟨0, 0, 0, 0, 0, false, false⟩
    ∧ s.it.id = ⟨0, 0⟩ ∧ s.it.elapsed = 0 ∧ s.it.length = none ∧ s.it.startPos = 0 ∧ s.it.trim = 0
    ∧ s.it.window = none ∧ s.it.captureL = none ∧ s.it.captureH = none
    ∧ s.rb.band = .b0 ∧ s.rb.impQuanta = 0 ∧ s.rb.expQuanta = 0 ∧ s.rb.saturated = false
    ∧ (∀ b, totalsOf s.rb.totals b = ⟨0, 0⟩)
    ∧ (∀ ch, (chanOf s.line ch).state = .off ∧ (chanOf s.line ch).errors = 0
        ∧ (chanOf s.line ch).access = .idle ∧ (chanOf s.line ch).attempts = 0
        ∧ (chanOf s.line ch).recv = .off ∧ (chanOf s.line ch).committed = none
        ∧ (chanOf s.line ch).gapTimer = none ∧ (chanOf s.line ch).backoffTimer = none
        ∧ (chanOf s.line ch).echoTimer = none ∧ (chanOf s.line ch).jabberTimer = none)
    ∧ s.line.sendList = [] ∧ s.line.outcome = .noReport ∧ s.line.barred = false ∧ s.line.filter = []
    ∧ s.su.peers = List.replicate 15 ⟨none, .absent, none, none, 0, false, none, none⟩
    ∧ s.su.closing = none ∧ s.su.misaligned = false ∧ s.su.streak = 0
    ∧ s.su.summary = ⟨0, 0, 0, false⟩
    ∧ s.el.effectiveCap = none ∧ s.el.pendingCap = none ∧ s.el.latch = 0 ∧ s.el.shed = []
    ∧ s.el.overCount = 0 ∧ s.el.underCount = 0 ∧ s.el.holdOff = 0 ∧ s.el.settling = false
    ∧ s.el.level = false ∧ s.el.runCount = 0 ∧ s.el.cutoffLatch = false
    ∧ s.el.curtailedSeen = false ∧ s.el.cutoffSeen = false
    ∧ s.store.pages = List.replicate 16 ⟨.empty, []⟩ ∧ s.store.writePage = 0 ∧ s.store.writeSlot = 0
    ∧ s.store.held = []
    ∧ s.supply.op = .start ∧ s.supply.ret = .start ∧ s.supply.release = none
    ∧ s.supply.retentionValid = false ∧ s.supply.retainedQ = none
    ∧ s.alerts = ⟨0, 0x100#9, .armed⟩
    ∧ s.supply.resetHeld = false
    ∧ s.port = ⟨.idle, [], none, true, false⟩)
  ∧ (∀ (pfw csnLow : Bool) (s : State),
    let cleared : State :=
      { State.reset with
        pending := s.pending
        draws := s.draws
        line := { Line.reset with l := { Chan.reset with cs := s.line.l.cs },
                                  h := { Chan.reset with cs := s.line.h.cs } } }
    exec (.powerOnReset (.ended pfw csnLow)) s = .next
        { cleared with
          supply := { Supply.reset with op := if pfw then .hold else .start, pfw := pfw }
          alerts := { Alerts.reset with latches := if pfw then 1#9 else 0#9 }
          port := { Port.reset with serving := !csnLow, csnLow := csnLow } }
      ∧ exec (.powerOnReset .held) s = .next
          { cleared with
            supply := { Supply.reset with resetHeld := true }
            port := { Port.reset with serving := false, csnLow := s.port.csnLow } })

/-- RESETN (R143, R158): the retention domain is kept - residues, band totals, the record store, the
retention-valid flag and Q - and every other register takes its reset value; at its end a blocked store
latches STORE_BLOCKED (R140) and a transaction whose CSN is low is not served (R161). That the reset
finds the state that the last set's due work leaves (log 2, log 19), and that the queue, the draw
counter and the levels of CS and CSN are kept (log 19), are the model's choices. While a reset is held,
CTL0 to CTL3 are low, LTXEN and HTXEN inactive, TXD at the stop level and ALERTN released, and no row
but a reset's and a change of the CS level moves anything outside the port, which serves no transaction
(R143, R161). -/
def Obligations.ResetnKeepsTheRetentionDomain : Prop :=
  (∀ (pfw csnLow : Bool) (s : State),
    let u := takeDue s
    let kept : State :=
      { State.reset with
        pending := s.pending
        draws := s.draws
        line := { Line.reset with l := { Chan.reset with cs := u.line.l.cs },
                                  h := { Chan.reset with cs := u.line.h.cs } }
        ne := { NettingEngine.reset with residueImport := u.ne.residueImport,
                                         residueExport := u.ne.residueExport }
        rb := { RegisterBank.reset with totals := u.rb.totals }
        store := u.store }
    let supply : Supply :=
      { op := .start, ret := .start, release := none, pfw := false, resetHeld := false
        retentionValid := s.supply.retentionValid, retainedQ := s.supply.retainedQ }
    exec (.resetn (.ended pfw csnLow)) s = .next
        { kept with
          supply := { supply with op := if pfw then .hold else .start, pfw := pfw }
          alerts :=
            { Alerts.reset with
              latches := (if pfw then 1#9 else 0#9) ||| (if storeBlocked u.store then 8#9 else 0#9) }
          port := { Port.reset with serving := !csnLow, csnLow := csnLow } }
      ∧ exec (.resetn .held) s = .next
          { kept with
            supply := { supply with resetHeld := true }
            port := { Port.reset with serving := false, csnLow := s.port.csnLow } })
  ∧ (∀ (s : State) (i : Instr), s.supply.resetHeld = true → ResetLaw s →
    (∀ k, ctlPin s k = false) ∧ (∀ ch n, txenPin s ch = false ∧ txdPin s ch n = true)
      ∧ alertnLow s = false
      ∧ ((∀ r, i ≠ .powerOnReset r ∧ i ≠ .resetn r) → (∀ ch a, i ≠ .carrierSenseChange ch a) →
          ∃ p : Port, p.serving = false ∧ exec i s = .next { s with port := p }))

/-! ## What every step keeps -/

/-- Right after power-on reset every law of the device holds. -/
def Obligations.EveryLawHoldsAtReset : Prop :=
  StoreLaw State.reset.store ∧ ShedLaw State.reset.el ∧ CapLaw State.reset ∧ LineLaw State.reset
    ∧ SettledLaw State.reset ∧ PeerLaw State.reset ∧ ResidueLaw State.reset ∧ QuietLaw State.reset
    ∧ ConfiguredLaw State.reset ∧ WindowLaw State.reset ∧ IntervalLaw State.reset
    ∧ BlockLaw State.reset ∧ AlertLaw State.reset ∧ CounterLaw State.reset ∧ ResetLaw State.reset
    ∧ PortLaw State.reset

/-- The Record Store keeps its canonical form: pages that fit their states, a write position that
fits its page, at most one held record a band and none while the store is open (R126, R127, R130,
R135). -/
def Obligations.StoreLawIsKept : Prop :=
  KeptByStep fun s => StoreLaw s.store

/-- The shed stack holds no line twice, only lines whose host latch bit is 1, and nothing while
the cutoff latch is set (R109, R111). -/
def Obligations.ShedLawIsKept : Prop :=
  KeptByStep fun s => ShedLaw s.el

/-- The effective cap and a pending cap stay between the base cap and the ceiling cap (R105). -/
def Obligations.CapLawIsKept : Prop :=
  KeptByStep CapLaw

/-- A channel in OFF or FAULT never leaves IDLE, and an OFF channel does not receive; the send list
holds at most four entries, REPORTs first, and none while transmit is barred (R52, R53, R57, R58,
R75, R77). R65 sets a channel discarding as it begins to send; that it stays so until the attempt
ends, RECEIVE_READY having no effect, is the model's reading (log 16). -/
def Obligations.LineLawIsKept : Prop :=
  KeptByStep LineLaw

/-- Entries leave the send list when R60 says, channels leave and rejoin the sending set as R59
says, and an idle channel of the sending set has nothing PENDING (R62), after every command. -/
def Obligations.SendListIsKeptSettled : Prop :=
  KeptByStep SettledLaw

/-- The peer view keeps one entry for each station number but the part's own (R78); without a
configuration its fifteen entries stay ABSENT and cleared (R104), with no key (log 11). -/
def Obligations.PeerViewKeysAreKept : Prop :=
  KeptByStep PeerLaw

/-- The residues stay below Q, and the Q in force is the retained Q (R23, R24, R145, R147).
Interval counters stay at or below 2^31 - 1 and band totals below 2^40 (R48, R50). -/
def Obligations.EnergyFiguresStayInRange : Prop :=
  KeptByStep fun s => ResidueLaw s ∧ CounterLaw s

/-- The Sample Port is IDLE with its watchdog disarmed, and the line quiet, exactly outside RUN
and RESYNC, which are states of an accepted configuration (R3, R52, R77, R144, R148). The premise
holds the law of the line with it. A block holds at most 64 sets and its accumulators at most
4,831,739,904 for each (R17, R19); the last good products lie in the range of R15. A part held in
reset is silent, with no cause latched and no transaction served, until that reset's end (R143, R161);
that it stands in START until then is the model's own reading (log 19, DEDUCED: R143 sets the operating
state at the reset's end). A port that serves is idle exactly while CSN is high; one that does not is
idle, and a reset is held or CSN is low (R160, R161; the events of CSN: log 8). -/
def Obligations.SamplingLawsAreKept : Prop :=
  (KeptByStep fun s => QuietLaw s ∧ ConfiguredLaw s ∧ BlockLaw s) ∧ KeptByStep ResetLaw
    ∧ KeptByStep PortLaw

/-- The window is open exactly while the closing record waits for it, with its ID, in RUN only
(R38, R88, R90). An interval lasts L plus a trim of -32 to 32 and its elapsed count does not pass
that length (R32, R34, R39); an open window has not passed W (R38). -/
def Obligations.IntervalAndWindowLawsAreKept : Prop :=
  KeptByStep fun s => WindowLaw s ∧ IntervalLaw s

/-- SUPPLY is never masked (R169); the cutoff re-arm state waits exactly while the filtered level
is active (R168). -/
def Obligations.AlertLawIsKept : Prop :=
  KeptByStep AlertLaw

/-! ## Measurement and netting -/

/-- R15: a calibrated product is floor(v i g / 32768), formed exactly, within the stated range,
whose two ends are reached; a disabled phase forms none, whatever its samples are. -/
def Obligations.CalibratedProductsRoundDown : Prop :=
  (∀ (v i : BitVec 16) (g : Nat), 16384 ≤ g → g ≤ 49151 →
    32768 * calibrated v.toInt i.toInt g ≤ v.toInt * i.toInt * g
      ∧ v.toInt * i.toInt * g < 32768 * (calibrated v.toInt i.toInt g + 1)
      ∧ -2 ^ 47 ≤ v.toInt * i.toInt * g ∧ v.toInt * i.toInt * g < 2 ^ 47
      ∧ -1610530817 ≤ calibrated v.toInt i.toInt g ∧ calibrated v.toInt i.toInt g ≤ 1610579968)
  ∧ calibrated (-32768) (-32768) 49151 = 1610579968
  ∧ calibrated (-32768) 32767 49151 = -1610530817
  ∧ calibrated 32767 (-32768) 49151 = -1610530817
  ∧ ∀ (c : Setup) (x : Samples),
      (formProducts c x).p1 = (if c.phase1 then calibrated x.v1 x.i1 c.gain1 else 0)
        ∧ (formProducts c x).p2 = (if c.phase2 then calibrated x.v2 x.i2 c.gain2 else 0)
        ∧ (formProducts c x).p3 = (if c.phase3 then calibrated x.v3 x.i3 c.gain3 else 0)
        ∧ ∀ v i,
            (c.phase1 = false → formProducts c { x with v1 := v, i1 := i } = formProducts c x)
              ∧ (c.phase2 = false → formProducts c { x with v2 := v, i2 := i } = formProducts c x)
              ∧ (c.phase3 = false → formProducts c { x with v3 := v, i3 := i } = formProducts c x)

/-- R17, R18: PHASE-SUM adds the sum of the products to one accumulator by its sign; PER-PHASE
adds each product by its own; the set counts once in the block either way, and the residues and the sample
flags stay as they were. -/
def Obligations.NettingModes : Prop :=
  ∀ (p : Products) (n : NettingEngine), InProductRange p.p1 → InProductRange p.p2 →
    InProductRange p.p3 →
    (p.p1 + p.p2 + p.p3).natAbs ≤ 4831739904
      ∧ ((netSet .phaseSum p n).accImport : Int)
          = n.accImport + (if 0 < p.p1 + p.p2 + p.p3 then p.p1 + p.p2 + p.p3 else 0)
      ∧ ((netSet .phaseSum p n).accExport : Int)
          = n.accExport + (if p.p1 + p.p2 + p.p3 < 0 then -(p.p1 + p.p2 + p.p3) else 0)
      ∧ ((netSet .perPhase p n).accImport : Int)
          = n.accImport + (if 0 < p.p1 then p.p1 else 0) + (if 0 < p.p2 then p.p2 else 0)
            + (if 0 < p.p3 then p.p3 else 0)
      ∧ ((netSet .perPhase p n).accExport : Int)
          = n.accExport + (if p.p1 < 0 then -p.p1 else 0) + (if p.p2 < 0 then -p.p2 else 0)
            + (if p.p3 < 0 then -p.p3 else 0)
      ∧ ∀ m, (netSet m p n).blockSets = n.blockSets + 1
          ∧ netSet m p n
              = { n with
                  accImport := (netSet m p n).accImport
                  accExport := (netSet m p n).accExport
                  blockSets := (netSet m p n).blockSets }

/-- SAMPLE_SET_FRAME, a valid frame in order or while the sequence is open (R4, R7, R13, R31,
R41), no window close being due: a received set, its samples at the offsets of R175, netted and counted.
SAMPLE_SET_FRAME that is no arrival, or behind the expected number (R1, R6): nothing changes. R2: the
CRC-8 is the remainder of the division by 0x2F from 0x00, bit by bit, each byte most significant bit
first. R1: SDAT is sampled on the rising edges of SCLK, each byte most significant bit first: the levels
that carry bytes and fewer than eight further bits are the row with those bytes and as many bits of a
partial byte, whatever SDAT does at the falling edges (the level of a bit of 1: log 26). -/
def Obligations.SampleSetFrames : Prop :=
  (∀ (s : State) (c : Setup) (bytes : List Byte),
    nothingDue s = true → s.config = some c → windowDue c s = false → s.sp.state ≠ .idle →
    bytes.length = 14 → crc8 (bytes.take 13) = bytes.getD 13 0 →
    (s.sp.expected = none ∨ s.sp.expected = some (bytes.getD 0 0)) →
    let x : Samples :=
      { v1 := signedOf (bytesAt bytes 1 2), i1 := signedOf (bytesAt bytes 3 2)
        v2 := signedOf (bytesAt bytes 5 2), i2 := signedOf (bytesAt bytes 7 2)
        v3 := signedOf (bytesAt bytes 9 2), i3 := signedOf (bytesAt bytes 11 2) }
    let p := formProducts c x
    exec (.sampleSetFrame bytes 0 false) s = .next
      { s with
        sp := { state := .running, expected := some (bytes.getD 0 0 + 1), missing := 0, lastGood := p,
                watchdog := some 3840 }
        ne := netSet c.mode p s.ne
        it :=
          { s.it with
            elapsed := s.it.elapsed + 1
            captureL := s.it.captureL.map fun k => { k with since := min 65535 (k.since + 1) }
            captureH := s.it.captureH.map fun k => { k with since := min 65535 (k.since + 1) } } })
  ∧ (∀ (s : State) (bytes : List Byte) (partialBits : Nat) (inIdle : Bool), nothingDue s = true →
    (s.sp.state = .idle ∨ inIdle = true ∨ bytes.length ≠ 14 ∨ partialBits ≠ 0
      ∨ crc8 (bytes.take 13) ≠ bytes.getD 13 0
      ∨ ∃ e, s.sp.expected = some e ∧ 128 ≤ (bytes.getD 0 0 - e).toNat) →
    exec (.sampleSetFrame bytes partialBits inIdle) s = .next s)
  ∧ (∀ bytes : List Byte,
    let bits := bytes.flatMap fun b => (List.range 8).map fun i => b.getLsbD (7 - i)
    crc8 bytes
        = bits.foldl (fun (r : BitVec 8) bit => if r.msb != bit then (r <<< 1) ^^^ 0x2F#8 else r <<< 1)
            0x00#8
      ∧ ∀ (extra : List Bool) (data : List (Bool × Bool)) (sclk first inIdle : Bool),
          extra.length < 8 → data.map (·.1) = bits ++ extra →
          sampleFrameOf sclk
              ((false, first) :: data.flatMap fun d => [(true, d.1), (false, d.2)]) inIdle
            = .sampleSetFrame bytes extra.length inIdle)

/-- R5, R9: a frame ahead gives the same state whether or not a watchdog expiry comes just before
it, so each of the sets it overtakes is processed once, as the expiry would process it; and a
frame in order that an expiry has passed is discarded. R5, R12: a frame ahead by d gives the state
of d expiries followed by that frame in order, whatever they reach; and where they bring the count
of a RUNNING port to 64, SAMPLE is latched and the frame finds the port LOST and leaves it RUNNING,
its count 0. That a block closes before a window that closes with the same set of a back-fill is the model's
choice (log 2), where R106 leaves the order open. -/
def Obligations.ExpiryBeforeAFrameTakesOneOfItsSets : Prop :=
  (∀ (s t : State) (c : Setup) (bytes : List Byte) (e : BitVec 8),
    s.config = some c → isLive s = true → s.sp.state = .running →
    s.sp.watchdog.isSome = true → s.sp.missing + 1 < 64 → s.sp.expected = some e →
    bytes.length = 14 → crc8 (bytes.take 13) = bytes.getD 13 0 →
    exec .watchdogExpiry s = .next t →
    (1 ≤ (bytes.getD 0 0 - e).toNat → (bytes.getD 0 0 - e).toNat ≤ 127 →
        exec (.sampleSetFrame bytes 0 false) t = exec (.sampleSetFrame bytes 0 false) s)
      ∧ (bytes.getD 0 0 = e → exec (.sampleSetFrame bytes 0 false) t = .next (takeDue t)))
  ∧ (∀ (u : Nat → State) (c : Setup) (bytes : List Byte) (e : BitVec 8),
    let s := u 0
    let d := (bytes.getD 0 0 - e).toNat
    s.config = some c → s.sp.state ≠ .idle → s.sp.watchdog.isSome = true →
    s.sp.expected = some e → d ≤ 127 →
    bytes.length = 14 → crc8 (bytes.take 13) = bytes.getD 13 0 →
    (∀ k, k < d → exec .watchdogExpiry (u k) = .next (u (k + 1))) →
    let last := { u d with sp := { (u d).sp with expected := some (bytes.getD 0 0) } }
    exec (.sampleSetFrame bytes 0 false) s = exec (.sampleSetFrame bytes 0 false) last
      ∧ (s.sp.state = .running → s.sp.missing < 64 → 64 ≤ s.sp.missing + d →
          (u d).sp.state = .lost ∧ (u d).sp.missing = 64
            ∧ ∃ v, exec (.sampleSetFrame bytes 0 false) s = .next v
                ∧ v.sp.state = .running ∧ v.sp.missing = 0
                ∧ v.sp.expected = some (bytes.getD 0 0 + 1) ∧ v.alerts.latches.getLsbD 7 = true))

/-- WATCHDOG_EXPIRY (R8, R10, R12, R16, R29): one missing set, substituted while the count is 1 or
2 and zeroed from 3; at 64 the port becomes LOST, its sequence open, with SAMPLE latched. A window
close that is due is taken before the set (`Obligations.WhatIsDueIsTakenFirst`). -/
def Obligations.WatchdogExpiryFillsOneSet : Prop :=
  ∀ (s : State) (c : Setup), nothingDue s = true → s.config = some c → windowDue c s = false →
    s.sp.state ≠ .idle → s.sp.watchdog.isSome = true →
    let substituted := decide (s.sp.missing + 1 ≤ 2)
    let p := if substituted then s.sp.lastGood else ⟨0, 0, 0⟩
    let entersLost := decide (64 ≤ s.sp.missing + 1 ∧ s.sp.state ≠ .lost)
    exec .watchdogExpiry s = .next
      { s with
        sp :=
          { state := if 64 ≤ s.sp.missing + 1 then .lost else s.sp.state
            expected := if entersLost then none else s.sp.expected.map (· + 1)
            missing := min 64 (s.sp.missing + 1)
            lastGood := s.sp.lastGood
            watchdog := some 2560 }
        ne :=
          netSet c.mode p
            { s.ne with heldSeen := s.ne.heldSeen || substituted
                        faultSeen := s.ne.faultSeen || !substituted }
        it :=
          { s.it with
            elapsed := s.it.elapsed + 1
            captureL := s.it.captureL.map fun k => { k with since := min 65535 (k.since + 1) }
            captureH := s.it.captureH.map fun k => { k with since := min 65535 (k.since + 1) } }
        alerts :=
          if entersLost then { s.alerts with latches := s.alerts.latches ||| 0x80#9 } else s.alerts }

/-- BLOCK_CLOSE (R19, R20, R22, R23, R25, R26, R48, R50): the block that has filled, or that holds the
interval's last set, is judged against the creep threshold and quantized; its quanta go to the interval
counters and the band's totals, and its net export, from the accepted figures, to the Export Limiter.
While no such block is open nothing happens (the model's reading, log 3). R24 at each BLOCK_CLOSE: for
each direction the quanta emitted times Q and the new residue together are the old residue and the
accepted figure, and the new residue is below Q; the quanta are those the band total of the interval
takes. -/
def Obligations.BlockClose : Prop :=
  (∀ (s : State) (c : Setup), s.config = some c →
    (blockDue s = false → exec .blockClose s = .next s)
    ∧ (isLive s = true →
        (64 ≤ s.ne.blockSets ∨ 0 < s.ne.blockSets ∧ ∃ n, s.it.length = some n ∧ n ≤ s.it.elapsed) →
        let ai := if s.ne.accImport < c.creep then 0 else s.ne.accImport
        let ae := if s.ne.accExport < c.creep then 0 else s.ne.accExport
        let qi := (s.ne.residueImport + ai) / c.quantum
        let qe := (s.ne.residueExport + ae) / c.quantum
        let old := totalsOf s.rb.totals s.rb.band
        exec .blockClose s = .next
          { s with
            ne :=
              { s.ne with
                accImport := 0, accExport := 0, blockSets := 0
                residueImport := (s.ne.residueImport + ai) % c.quantum
                residueExport := (s.ne.residueExport + ae) % c.quantum }
            rb :=
              { band := s.rb.band
                impQuanta := min (2 ^ 31 - 1) (s.rb.impQuanta + qi)
                expQuanta := min (2 ^ 31 - 1) (s.rb.expQuanta + qe)
                saturated :=
                  s.rb.saturated || decide (2 ^ 31 - 1 < s.rb.impQuanta + qi)
                    || decide (2 ^ 31 - 1 < s.rb.expQuanta + qe)
                totals :=
                  setTotals s.rb.totals ⟨(old.imp + qi) % 2 ^ 40, (old.exp + qe) % 2 ^ 40⟩
                    s.rb.band }
            el := judgeBlock c true (ae - ai) s.el
            alerts :=
              if firesUnshed c true (ae - ai) s.el then
                { s.alerts with latches := s.alerts.latches ||| 0x10#9 }
              else s.alerts }))
  ∧ (∀ (s : State) (c : Setup), s.config = some c → 0 < c.quantum → blockDue s = true →
    let accepted (a : Nat) : Nat := if a < c.creep then 0 else a
    ∃ (t : State) (qi qe : Nat), exec .blockClose s = .next t
      ∧ qi * c.quantum + t.ne.residueImport = s.ne.residueImport + accepted s.ne.accImport
      ∧ qe * c.quantum + t.ne.residueExport = s.ne.residueExport + accepted s.ne.accExport
      ∧ t.ne.residueImport < c.quantum ∧ t.ne.residueExport < c.quantum
      ∧ (totalsOf t.rb.totals s.rb.band).imp = ((totalsOf s.rb.totals s.rb.band).imp + qi) % 2 ^ 40
      ∧ (totalsOf t.rb.totals s.rb.band).exp = ((totalsOf s.rb.totals s.rb.band).exp + qe) % 2 ^ 40
      ∧ ∀ b, b ≠ s.rb.band → totalsOf t.rb.totals b = totalsOf s.rb.totals b)

/-! ## Export headroom and control lines -/

/-- A control line is active exactly while its host latch bit is 1, it is wired, it is not in the
shed stack, the cutoff latch is clear and the part is in RUN or RESYNC (R114); the line a shed
takes is the highest-numbered active one, and there is none exactly while no line is active
(R115). -/
def Obligations.ControlLineActiveExactlyUnderFiveConditions : Prop :=
  ∀ (s : State) (c : Setup), s.config = some c →
    (∀ k, ctlOutput s k = true ↔
      s.el.latch.getLsbD k = true ∧ c.wired.getLsbD k = true ∧ k ∉ s.el.shed
        ∧ s.el.cutoffLatch = false ∧ (s.supply.op = .run ∨ s.supply.op = .resync))
    ∧ (∀ k, highestActive c (isLive s) s.el = some k ↔
        ctlOutput s k = true ∧ ∀ j, k < j → ctlOutput s j = false)
    ∧ (highestActive c (isLive s) s.el = none ↔ ∀ k, ctlOutput s k = false)

/-- A block close that reaches the limiter (R105, R107 to R110): the pending cap is taken, the
gate applied, and a judged block is above the cap, quiet, or between. R107: after a restore, which
sets the settling flag and the hold-off H, H + 1 blocks pass unjudged whatever they export, and
after a shed, which sets the hold-off alone, H blocks: the stack and both counts are as they were.
-/
def Obligations.BlockJudgement : Prop :=
  (∀ (c : Setup) (live : Bool) (net cap : Nat) (e : Limiter),
    (e.pendingCap.orElse fun _ => e.effectiveCap) = some cap →
    let e1 := { e with effectiveCap := some cap, pendingCap := none }
    (e.settling = true → judgeBlock c live net e = { e1 with settling := false })
    ∧ (e.settling = false → 0 < e.holdOff →
        judgeBlock c live net e = { e1 with holdOff := e.holdOff - 1 })
    ∧ (e.settling = false → e.holdOff = 0 →
        (cap < net → e.overCount < 2 →
          judgeBlock c live net e = { e1 with overCount := e.overCount + 1, underCount := 0 })
        ∧ (cap < net → 2 ≤ e.overCount → ∀ k, highestActive c live e1 = some k →
            judgeBlock c live net e =
              { e1 with
                shed := e.shed ++ [k]
                overCount := 0
                underCount := 0
                holdOff := c.holdOffLength
                curtailedSeen := true })
        ∧ (cap < net → 2 ≤ e.overCount → highestActive c live e1 = none →
            judgeBlock c live net e = { e1 with overCount := 0, underCount := 0 }
              ∧ firesUnshed c live net e = true)
        ∧ (net ≤ cap - cap / 8 → e.shed ≠ [] → e.underCount + 1 < c.restoreCount →
            judgeBlock c live net e = { e1 with underCount := e.underCount + 1, overCount := 0 })
        ∧ (net ≤ cap - cap / 8 → e.shed ≠ [] → c.restoreCount ≤ e.underCount + 1 →
            judgeBlock c live net e =
              { e1 with
                shed := e.shed.dropLast
                underCount := 0
                overCount := 0
                holdOff := c.holdOffLength
                settling := true })
        ∧ (net ≤ cap → cap - cap / 8 < net ∨ e.shed = [] →
            judgeBlock c live net e = { e1 with overCount := 0, underCount := 0 }))
    ∧ (firesUnshed c live net e = true ↔
        e.settling = false ∧ e.holdOff = 0 ∧ cap < net ∧ 2 ≤ e.overCount
          ∧ highestActive c live e1 = none))
  ∧ (∀ (c : Setup) (live : Bool) (nets : List Nat) (e : Limiter),
    nets.length = e.holdOff + (if e.settling then 1 else 0) →
    let t := nets.foldl (fun x n => judgeBlock c live n x) e
    t.shed = e.shed ∧ t.overCount = e.overCount ∧ t.underCount = e.underCount ∧ t.holdOff = 0
      ∧ t.settling = false ∧ t.latch = e.latch ∧ t.cutoffLatch = e.cutoffLatch)

/-- WRITE_LINES (R112, R113, R178): modes 0 SET, 1 OR, 2 AND over bits 0 to 3; bits outside the
wired mask become 0, and the entry of a line whose bit is 0 leaves the shed stack. RELEASE_CUTOFF
(R118). -/
def Obligations.HostControlOfTheLines : Prop :=
  (∀ (s : State) (c : Setup) (mode value : Byte), nothingDue s = true → s.config = some c →
    isLive s = true → s.port.serving = true →
    (2 < mode.toNat ∨ 15 < value.toNat →
      exec (.writeLines mode value) s = .next (answered [0x06#8, mode, value] 0xA3#8 [] s))
    ∧ (mode.toNat ≤ 2 → value.toNat ≤ 15 →
        let v : BitVec 4 := value.setWidth 4
        let new :=
          (if mode.toNat = 0 then v else if mode.toNat = 1 then s.el.latch ||| v
            else s.el.latch &&& v) &&& c.wired
        exec (.writeLines mode value) s = .next
          (answered [0x06#8, mode, value] 0xA0#8 []
            { s with
              el := { s.el with latch := new, shed := s.el.shed.filter fun k => new.getLsbD k } })))
  ∧ (∀ s : State, nothingDue s = true → isLive s = true → s.port.serving = true →
    (s.el.level = true → exec .releaseCutoff s = .next (answered [0x07#8] 0xA5#8 [] s))
    ∧ (s.el.level = false → s.el.cutoffLatch = false →
        exec .releaseCutoff s = .next (answered [0x07#8] 0xA6#8 [] s))
    ∧ (s.el.level = false → s.el.cutoffLatch = true →
        exec .releaseCutoff s = .next
          (answered [0x07#8] 0xA0#8 []
            { s with el := { s.el with cutoffLatch := false, settling := true } })))

/-- CUTOFF_SAMPLE (R116, R117, R168): the third differing sample in a row changes the filtered
level; a change to active sets the cutoff latch, empties the stack and clears the counts; CUTOFF
latches only while armed, and a change to inactive arms it. The pin is sampled from a reset's end. -/
def Obligations.CutoffSample : Prop :=
  ∀ (s : State) (sample : Bool), nothingDue s = true → s.supply.resetHeld = false →
    let raised : Alerts :=
      if s.alerts.rearm = .armed then
        { s.alerts with latches := s.alerts.latches ||| 2#9, rearm := .waiting }
      else s.alerts
    (sample = s.el.level →
      exec (.cutoffSample sample) s = .next
        { s with
          el := { s.el with runCount := 0 }
          alerts := if s.el.level then raised else s.alerts })
    ∧ (sample ≠ s.el.level → s.el.runCount < 2 →
        exec (.cutoffSample sample) s = .next
          { s with
            el := { s.el with runCount := s.el.runCount + 1 }
            alerts := if s.el.level then raised else s.alerts })
    ∧ (sample = true → s.el.level = false → 2 ≤ s.el.runCount →
        exec (.cutoffSample sample) s = .next
          { s with
            el :=
              { s.el with
                level := true
                runCount := 0
                cutoffLatch := true
                shed := []
                overCount := 0
                underCount := 0
                holdOff := 0
                settling := false
                cutoffSeen := s.el.cutoffSeen || isLive s }
            alerts := raised })
    ∧ (sample = false → s.el.level = true → 2 ≤ s.el.runCount →
        exec (.cutoffSample sample) s = .next
          { s with
            el := { s.el with level := false, runCount := 0 }
            alerts := { s.alerts with rearm := .armed } })

/-! ## Intervals -/

/-- R32, R33: the successor stays a legal ID, moves on to interval 0 of the next day modulo 65536 at
a day's end, and is undone by the predecessor; the figures of each length code, whose lengths make up the
day. R46: the band of an
interval-of-day is that of the last switch point at or before it; where none is, that of the last
switch point of the list; and band 0 for an empty list. -/
def Obligations.IntervalIdsAndBands : Prop :=
  (∀ (code day iod : Nat), code ≤ 5 → day < 65536 → iod < perDay code →
    let n := succId (perDay code) ⟨day, iod⟩
    (iod + 1 < perDay code → n = ⟨day, iod + 1⟩)
      ∧ (iod + 1 = perDay code → n = ⟨(day + 1) % 65536, 0⟩)
      ∧ n.day < 65536 ∧ n.iod < perDay code
      ∧ predId (perDay code) n = ⟨day, iod⟩
      ∧ nominalLength code * perDay code = 1440 * 192000
      ∧ nominalLength code = 64 * fullBlocks code)
  ∧ (List.range 6).map perDay = [1440, 288, 144, 96, 48, 24]
  ∧ (List.range 6).map nominalLength = [192000, 960000, 1920000, 2880000, 5760000, 11520000]
  ∧ (∀ (cal : List SwitchPoint) (i : Nat), cal.Pairwise (fun a b => a.iod < b.iod) →
    (cal = [] → bandFor cal i = .b0)
      ∧ (∀ p ∈ cal, p.iod ≤ i → (∀ q ∈ cal, q.iod ≤ i → q.iod ≤ p.iod) → bandFor cal i = p.band)
      ∧ (∀ p ∈ cal, (∀ q ∈ cal, i < q.iod ∧ q.iod ≤ p.iod) → bandFor cal i = p.band))

/-- COUNT_COMPLETE_BOUNDARY (R34, R38, R43, R47, R49, R80, R87 to R89, R119), once the block of
the last set has closed (R20, R31): the closing record is taken, the window opens, the REPORT is
handed over and then, where the presence counter is 1, a PRESENCE; the new interval begins. While
that block is still open it closes first, in the same event. Elsewhere nothing happens (log 3).
UNALIGNED_BOUNDARY (R33, R35, R47, R102, R119), once the block of the last set has closed: the
record is made at once, over the own net alone; the next unaligned interval begins; elsewhere
nothing happens (log 3, the model's reading). An entry of the peer view as a window opens, field by
field: Counted is set exactly for a PRESENT peer (R80); a filled early slot is resolved against the length
of the interval just closed into the closing slot, or is MISALIGNED where its offset is beyond 4096, and
is empty either way (R87). -/
def Obligations.CountCompleteBoundaries : Prop :=
  (∀ (s : State) (c : Setup), s.config = some c →
    (countComplete s = false ∨ s.supply.op ≠ .run → exec .countCompleteBoundary s = .next s)
    ∧ (countComplete s = true → s.supply.op = .run → blockDue s = true →
        exec .countCompleteBoundary s
          = exec .countCompleteBoundary (closeBlock c true s))
    ∧ (countComplete s = true → s.supply.op = .run → blockDue s = false →
        let net : Int := (s.rb.impQuanta : Int) - s.rb.expQuanta
        let f : Figures :=
          { id := s.it.id, length := s.it.elapsed, trim := s.it.trim, impQuanta := s.rb.impQuanta,
            expQuanta := s.rb.expQuanta, net := net, saturated := s.rb.saturated,
            band := s.rb.band, held := s.ne.heldSeen, fault := s.ne.faultSeen,
            curtailed := s.el.curtailedSeen, cutoff := s.el.cutoffSeen,
            short := decide (0 < s.it.startPos) }
        let next := succId (perDay c.lengthCode) s.it.id
        let withReport := handReport true s.it.id net s.line
        exec .countCompleteBoundary s = .next
          { s with
            it :=
              { s.it with
                id := next
                elapsed := 0
                startPos := 0
                trim := 0
                length := some (nominalLength c.lengthCode)
                window := some s.it.id
                presence := if s.it.presence = 1 then c.presence else s.it.presence - 1 }
            rb :=
              { s.rb with
                band := bandFor c.calendar next.iod
                impQuanta := 0
                expQuanta := 0
                saturated := false }
            ne := { s.ne with heldSeen := false, faultSeen := false }
            el :=
              { s.el with
                curtailedSeen := !s.el.shed.isEmpty
                cutoffSeen := s.el.cutoffLatch }
            su :=
              { s.su with
                peers := s.su.peers.map (openPeer s.it.elapsed)
                closing := some f
                misaligned := s.su.misaligned || s.su.peers.any (earlyImplausible s.it.elapsed) }
            line :=
              if s.it.presence = 1 then handPresence true next withReport else withReport }))
  ∧ (∀ (s : State) (c : Setup), s.config = some c →
    (countComplete s = false ∨ s.supply.op ≠ .resync → exec .unalignedBoundary s = .next s)
    ∧ (countComplete s = true → s.supply.op = .resync → blockDue s = true →
        exec .unalignedBoundary s = exec .unalignedBoundary (closeBlock c true s))
    ∧ (countComplete s = true → s.supply.op = .resync → blockDue s = false →
        let net : Int := (s.rb.impQuanta : Int) - s.rb.expQuanta
        let f : Figures :=
          { id := s.it.id, length := s.it.elapsed, trim := s.it.trim, impQuanta := s.rb.impQuanta,
            expQuanta := s.rb.expQuanta, net := net, saturated := s.rb.saturated,
            band := s.rb.band, held := s.ne.heldSeen, fault := s.ne.faultSeen,
            curtailed := s.el.curtailedSeen, cutoff := s.el.cutoffSeen,
            short := decide (0 < s.it.startPos) }
        let k : Marks :=
          { supply := false, unaligned := true, solo := false, incomplete := false,
            txFailed := false, listenOnly := s.line.barred }
        let r : Record :=
          { firstId := s.it.id, lastId := s.it.id, band := s.rb.band, flags := recordFlags f k,
            mergeCount := 1, heard := 1#16 <<< c.station, expected := 0, trim := s.it.trim,
            impQuanta := s.rb.impQuanta, expQuanta := s.rb.expQuanta, share := 0,
            m := net.toNat, x := (-net).toNat }
        exec .unalignedBoundary s = .next
          (putRecord r
            { s with
              it :=
                { s.it with
                  id := succId (perDay c.lengthCode) s.it.id
                  elapsed := 0
                  startPos := 0
                  trim := 0
                  length := some (nominalLength c.lengthCode) }
              rb := { s.rb with band := .unbanded, impQuanta := 0, expQuanta := 0, saturated := false }
              ne := { s.ne with heldSeen := false, faultSeen := false }
              el :=
                { s.el with
                  curtailedSeen := !s.el.shed.isEmpty
                  cutoffSeen := s.el.cutoffLatch } })))
  ∧ (∀ (length : Nat) (p : PeerEntry),
    let q := openPeer length p
    let offset (e : EarlySlot) : Int := (e.elapsed : Int) - length - e.delay
    (q.counted = true ↔ p.state = .present)
      ∧ q.early = none
      ∧ (p.early = none → q.closing = p.closing ∧ earlyImplausible length p = false)
      ∧ (∀ e, p.early = some e →
          ((offset e).natAbs ≤ 4096 →
            q.closing = some ⟨e.net, offset e⟩ ∧ earlyImplausible length p = false)
          ∧ (4096 < (offset e).natAbs →
            q.closing = p.closing ∧ earlyImplausible length p = true))
      ∧ q = { p with counted := q.counted, early := q.early, closing := q.closing })

/-- WINDOW_CLOSE (R38, R39, R61, R73, R91 to R99): with the closing record f, the record of the
window goes to the store, the unit is settled, the cap is handed over, the REPORT leaves, and the
trim changes the interval in progress. While no window is due nothing happens (the model's reading,
log 3). The line at a window close (R61, R73): a copy in SENDING of a REPORT in the list is cut, its
attempt count and error counter unchanged; no REPORT entry is left, the PRESENCE entries stay but
for those that R60 makes leave, the outcome is none and the filter empty. -/
def Obligations.WindowClose : Prop :=
  (∀ (s : State) (c : Setup), s.config = some c →
    (windowDue c s = false → exec .windowClose s = .next s)
    ∧ ∀ f, windowDue c s = true → s.su.closing = some f →
        let peers := s.su.peers.filter fun p => p.closing.isSome
        let nets := s.su.peers.filterMap fun p => p.closing.map (·.net)
        let m := ((f.net :: nets).map Int.toNat).sum
        let x := ((f.net :: nets).map fun n => (-n).toNat).sum
        let exporters := ((f.net :: nets).filter fun n => decide (n < 0)).length
        let expected := (s.su.peers.filter fun p => p.counted).length
        let share :=
          if nets = [] ∨ f.net = 0 then 0
          else if 0 < f.net then f.net.toNat * min m x / m else (-f.net).toNat * min m x / x
        let bonus := (m - f.net.toNat) * c.quantum / (fullBlocks c.lengthCode * max 1 exporters)
        let cap := if nets = [] then c.baseCap else min (c.baseCap + bonus) c.ceilingCap
        let k : Marks :=
          { supply := false, unaligned := false, solo := decide (nets = []),
            incomplete := decide (nets.length < expected),
            txFailed :=
              !s.line.barred && decide (s.line.outcome = .notSent ∨ s.line.outcome = .pending),
            listenOnly := s.line.barred }
        let r : Record :=
          { firstId := f.id, lastId := f.id, band := f.band, flags := recordFlags f k,
            mergeCount := 1
            heard :=
              (peers.filterMap (·.station)).foldl (fun w n => w ||| 1#16 <<< n) (1#16 <<< c.station)
            expected := expected, trim := f.trim, impQuanta := f.impQuanta,
            expQuanta := f.expQuanta, share := share, m := m, x := x }
        let fires := decide (nets = [] ∧ s.su.misaligned = true ∧ 2 ≤ s.su.streak)
        let trim := trimOf (s.su.peers.filterMap fun p => p.closing.map (·.offset))
        exec .windowClose s = .next
          (putRecord r
            { s with
              it :=
                { s.it with
                  window := none
                  trim := trim
                  length := some ((nominalLength c.lengthCode : Int) + trim).toNat }
              line := lineWindowClose true s.line
              su :=
                { peers := s.su.peers.map settlePeer, closing := none, misaligned := false
                  streak :=
                    if nets ≠ [] then 0
                    else if s.su.misaligned then (if 2 ≤ s.su.streak then 0 else s.su.streak + 1)
                    else s.su.streak
                  summary := ⟨m, x, exporters, decide (nets ≠ [])⟩ }
              el := { s.el with pendingCap := some cap }
              alerts :=
                if fires then { s.alerts with latches := s.alerts.latches ||| 0x40#9 }
                else s.alerts }))
  ∧ (∀ (live : Bool) (l : Line),
    let t := lineWindowClose live l
    let presences := l.sendList.filter fun e => e.kind == .presence
    let cut (k : Chan) : Chan :=
      { k with
        access := .idle
        committed := none
        lapsed := false
        copy := []
        recv := .waitQuiet
        gapTimer := none
        backoffTimer := none
        echoTimer := none
        jabberTimer := none }
    let wasCut (k : Chan) : Bool :=
      k.access == .sending
        && l.sendList.any fun e => e.kind == .report && k.committed == some e.serial
    (∀ e ∈ t.sendList, e.kind = .presence)
      ∧ t.sendList
          = presences.filter (fun e =>
              !(inSendingSet l .l || inSendingSet l .h)
                || (inSendingSet l .l && e.statusL == .pending)
                || (inSendingSet l .h && e.statusH == .pending))
      ∧ t.outcome = .noReport ∧ t.filter = [] ∧ t.barred = l.barred ∧ t.nextSerial = l.nextSerial
      ∧ (∀ ch, (chanOf t ch).state = (chanOf l ch).state ∧ (chanOf t ch).errors = (chanOf l ch).errors
          ∧ (wasCut (chanOf l ch) = true →
              (chanOf t ch).access ≠ .sending ∧ (chanOf t ch).recv = .waitQuiet))
      ∧ t =
          judgeLine live
            { l with
              l := if wasCut l.l then cut l.l else l.l
              h := if wasCut l.h then cut l.h else l.h
              sendList := presences
              outcome := .noReport
              filter := [] })

/-- R40: a window that is open at an early close, due or not, is settled exactly as WINDOW_CLOSE
settles it once its count has reached W, but for the trim, which is discarded. R21: the open block,
however many sets it holds, is closed as BLOCK_CLOSE closes a full one; at HOLD entry alone it is
not judged. -/
def Obligations.EarlyClosesSettleAsTheTimelyOnes : Prop :=
  ∀ (s : State) (c : Setup), s.config = some c → isLive s = true →
    (∀ f, s.it.window.isSome = true → s.su.closing = some f →
      ∃ t, exec .windowClose { s with it := { s.it with elapsed := c.window } } = .next t
        ∧ settleOpenWindow c s = { t with it := { s.it with window := none } })
    ∧ (s.it.window = none → settleOpenWindow c s = s)
    ∧ (0 < s.ne.blockSets →
        exec .blockClose { s with ne := { s.ne with blockSets := 64 } }
          = .next (closeOpenBlock c true s))
    ∧ (s.ne.blockSets = 0 → ∀ judged, closeOpenBlock c judged s = s)
    ∧ (0 < s.ne.blockSets →
        closeOpenBlock c false s
          = { closeOpenBlock c true s with el := s.el, alerts := s.alerts })

/-- SET_DAY_POSITION (R36, R37, R44, R85, R98, R101 to R103): an open block is closed and an open
window settled first; the interval in progress is closed SHORT, SOLO in RUN and UNALIGNED without
a settlement in RESYNC; the new interval begins at the preset position, in RUN. -/
def Obligations.SetDayPosition : Prop :=
  ∀ (s : State) (c : Setup) (day iod : BitVec 16) (elapsed : BitVec 32),
    nothingDue s = true → s.config = some c → isLive s = true → s.port.serving = true →
    let taken := 0x0B#8 :: (beBytes 2 day.toNat ++ beBytes 2 iod.toNat ++ beBytes 4 elapsed.toNat)
    let s1 := settleOpenWindow c (closeOpenBlock c true s)
    let net : Int := (s1.rb.impQuanta : Int) - s1.rb.expQuanta
    let e := elapsed.toNat
    let it : IntervalTimer :=
      { s1.it with
        id := ⟨day.toNat, iod.toNat⟩
        elapsed := e
        startPos := e
        trim := 0
        length := some (nominalLength c.lengthCode) }
    let rb : RegisterBank :=
      { s1.rb with
        band := bandFor c.calendar iod.toNat
        impQuanta := 0
        expQuanta := 0
        saturated := false }
    let ne : NettingEngine := { s1.ne with heldSeen := false, faultSeen := false }
    let peers := s1.su.peers.map fun p => { p with early := none }
    let el : Limiter :=
      { s1.el with curtailedSeen := !s1.el.shed.isEmpty, cutoffSeen := s1.el.cutoffLatch }
    (perDay c.lengthCode ≤ iod.toNat ∨ nominalLength c.lengthCode ≤ e →
      exec (.setDayPosition day iod elapsed) s = .next (answered taken 0xA3#8 [] s))
    ∧ (iod.toNat < perDay c.lengthCode → e < nominalLength c.lengthCode →
        (s.supply.op = .run →
          exec (.setDayPosition day iod elapsed) s = .next
            (answered taken 0xA0#8 []
              { putRecord (earlyRecord c s1 false false true) s1 with
                it := it
                rb := rb
                ne := ne
                el := { el with pendingCap := some c.baseCap }
                su :=
                  { s1.su with
                    peers := peers
                    summary := ⟨net.toNat, (-net).toNat, if net < 0 then 1 else 0, false⟩ } }))
        ∧ (s.supply.op = .resync →
            exec (.setDayPosition day iod elapsed) s = .next
              (answered taken 0xA0#8 []
                { putRecord (earlyRecord c s1 false true false) s1 with
                  it := { it with presence := c.presence }
                  rb := rb
                  ne := ne
                  el := el
                  su := { s1.su with peers := peers }
                  supply := { s.supply with op := .run }
                  line := handPresence true ⟨day.toNat, iod.toNat⟩ s1.line })))

/-- RESYNC (R36, R81, R96, R98, R101, R103, R157): in RUN the open block is closed, an open window
settled, the interval closed SHORT, UNALIGNED and SOLO; the unit and the duplicate filter are
cleared, the base cap handed over, and RESYNC entered with the successor ID and a PRESENCE. -/
def Obligations.ResyncCommand : Prop :=
  ∀ (s : State) (c : Setup), nothingDue s = true → s.config = some c → s.supply.op = .run →
    s.port.serving = true →
    let s1 := settleOpenWindow c (closeOpenBlock c true s)
    let net : Int := (s1.rb.impQuanta : Int) - s1.rb.expQuanta
    let next := succId (perDay c.lengthCode) s.it.id
    exec .resync s = .next
      (answered [0x0E#8] 0xA0#8 []
        { putRecord (earlyRecord c s1 false true true) s1 with
          supply := { s.supply with op := .resync }
          it :=
            { s1.it with
              id := next
              elapsed := 0
              startPos := 0
              trim := 0
              length := some (nominalLength c.lengthCode) }
          rb :=
            { s1.rb with band := .unbanded, impQuanta := 0, expQuanta := 0, saturated := false }
          ne := { s1.ne with heldSeen := false, faultSeen := false }
          el :=
            { s1.el with
              pendingCap := some c.baseCap
              curtailedSeen := !s1.el.shed.isEmpty
              cutoffSeen := s1.el.cutoffLatch }
          su :=
            { peers := s1.su.peers.map fun p => ⟨p.station, .absent, none, none, 0, false, none, none⟩
              closing := none
              misaligned := false
              streak := 0
              summary := ⟨net.toNat, (-net).toNat, if net < 0 then 1 else 0, false⟩ }
          line := handPresence true next { s1.line with filter := [] } })

/-! ## Peer views and settlement -/

/-- R93 (with the sums of R92): the share is floor(|N| min(M, X) / side) on the station's own
side, 0 where the own N is 0 or no peer was heard; it never exceeds the own |N| nor min(M, X), and
the formula itself would give 0 with no peer heard; the record of a settled window carries it. The
shares of one side can add to less than the match total (50 and 25 against 20). -/
def Obligations.OwnMatchedShare : Prop :=
  (∀ (own : Int) (nets : List Int),
    let m := importSum (own :: nets)
    let x := exportSum (own :: nets)
    let share := matchedShare own nets.length m x
    (nets ≠ [] → 0 < own → share = own.toNat * min m x / m)
      ∧ (nets ≠ [] → own < 0 → share = (-own).toNat * min m x / x)
      ∧ (own = 0 ∨ nets = [] → share = 0)
      ∧ share ≤ own.natAbs ∧ share ≤ min m x
      ∧ (nets = [] → own.natAbs * min m x = 0)
      ∧ ∀ (c : Setup) (f : Figures) (u : Settlement) (o : ReportOutcome) (b : Bool),
          f.net = own → heardNets u.peers = nets → (windowRecord c f u o b).share = share)
  ∧ matchedShare 50 2 75 20 + matchedShare 25 2 75 20 < min 75 20

/-- R95, R97, R98: the trim is trunc(sum / (2 count)) limited to -32 to 32, and 0 with no slot
filled; the cap is the base cap plus the bonus, at most the ceiling cap, and the base cap with no
peer heard. R80, R91: a settlement steps the missed count of a counted peer that was not heard,
which becomes SILENT at 4, and leaves every closing slot empty and every Counted field clear; the
peer is otherwise as it was. -/
def Obligations.WhatASettlementGives : Prop :=
  ((∀ offsets : List Int,
    -32 ≤ trimOf offsets ∧ trimOf offsets ≤ 32
      ∧ (offsets = [] → trimOf offsets = 0)
      ∧ (offsets ≠ [] → (offsets.sum.natAbs / (2 * offsets.length) ≤ 32 →
            (trimOf offsets).natAbs = offsets.sum.natAbs / (2 * offsets.length))
          ∧ (32 < offsets.sum.natAbs / (2 * offsets.length) → (trimOf offsets).natAbs = 32)
          ∧ (0 ≤ offsets.sum → 0 ≤ trimOf offsets) ∧ (offsets.sum ≤ 0 → trimOf offsets ≤ 0)))
  ∧ ∀ (c : Setup) (own : Int) (nets : List Int), c.baseCap ≤ c.ceilingCap →
      c.baseCap ≤ settledCap c own nets ∧ settledCap c own nets ≤ c.ceilingCap
        ∧ (nets = [] → settledCap c own nets = c.baseCap)
        ∧ (nets ≠ [] →
            settledCap c own nets
              = min c.ceilingCap
                  (c.baseCap
                    + importSum nets * c.quantum
                      / (fullBlocks c.lengthCode * max 1 (exporterCount (own :: nets))))))
  ∧ (∀ p : PeerEntry,
    (p.counted = true → p.closing = none →
      settlePeer p =
        { p with
          counted := false
          missed := min 4 (p.missed + 1)
          state := if 4 ≤ p.missed + 1 then .silent else p.state })
    ∧ (p.counted = false ∨ p.closing ≠ none →
        settlePeer p = { p with counted := false, closing := none }))

/-- R79, R82 to R86: an accepted frame makes its sender PRESENT with missed count 0; a REPORT is
then ALIGNED (its N and offset fill an empty closing slot), EARLY (it fills the early slot), LATE,
or MISALIGNED (the misaligned-heard flag), by the first test that applies. -/
def Obligations.FrameReachesTheSettlementUnit : Prop :=
  ∀ (c : Setup) (it : IntervalTimer) (ch : Channel) (cap : Option Capture) (f : GroupFrame)
    (u : Settlement),
    let heard (g : PeerEntry → PeerEntry) : List PeerEntry :=
      u.peers.map fun p =>
        if p.station = some f.station then
          g { p with state := .present, missed := 0, lastId := some f.id, lastChannel := some ch }
        else p
    let prev := predId (perDay c.lengthCode) it.id
    let prev2 := predId (perDay c.lengthCode) prev
    let result := receiveFrame c it ch cap f u
    (∀ st blocks, f.body = .presence st blocks → result = { u with peers := heard id })
    ∧ ∀ net delay, f.body = .report net delay →
        let misaligned : Settlement := { u with peers := heard id, misaligned := true }
        (f.lengthCode ≠ c.lengthCode → result = misaligned)
        ∧ (f.lengthCode = c.lengthCode → f.id = prev → it.window = some prev →
            ∀ g, u.closing = some g →
              (∀ k o, cap = some k →
                (k.id = it.id → o = (k.elapsed : Int) - delay) →
                (k.id ≠ it.id → k.id = f.id → o = (k.elapsed : Int) - g.length - delay) →
                (k.id = it.id ∨ k.id = f.id) →
                result =
                  if o.natAbs ≤ 4096 then
                    { u with
                      peers :=
                        heard fun p => if p.closing = none then { p with closing := some ⟨net, o⟩ } else p }
                  else misaligned)
              ∧ (cap = none ∨ (∃ k, cap = some k ∧ k.id ≠ it.id ∧ k.id ≠ f.id) →
                  result = misaligned))
        ∧ (f.lengthCode = c.lengthCode → ¬ (f.id = prev ∧ it.window = some prev) → f.id = it.id →
            (∀ k, cap = some k → k.id = it.id →
              result =
                { u with
                  peers := heard fun p => { p with early := some ⟨net, k.elapsed, delay⟩ } })
            ∧ (cap = none ∨ (∃ k, cap = some k ∧ k.id ≠ it.id) → result = misaligned))
        ∧ (f.lengthCode = c.lengthCode → f.id ≠ it.id → it.window ≠ some prev →
            f.id = prev ∨ f.id = prev2 → result = { u with peers := heard id })
        ∧ (f.lengthCode = c.lengthCode → f.id ≠ it.id → f.id ≠ prev → f.id = prev2 →
            result = { u with peers := heard id })
        ∧ (f.lengthCode = c.lengthCode → f.id ≠ it.id → f.id ≠ prev → f.id ≠ prev2 →
            result = misaligned)

/-- R87: a REPORT for the interval in progress, accepted together with the boundary that ends it,
gives the same closing slot, and the same misaligned-heard flag, whichever is taken first. -/
def Obligations.EarlyAndAlignedGiveTheSameSlot : Prop :=
  ∀ (c : Setup) (s : State) (ch : Channel) (k : Capture) (f : GroupFrame) (net : Int) (delay : Nat)
    (p : PeerEntry),
    c.lengthCode ≤ 5 → s.it.id.day < 65536 → s.it.id.iod < perDay c.lengthCode →
    f.body = .report net delay → f.lengthCode = c.lengthCode → f.id = s.it.id → k.id = s.it.id →
    s.it.window = none → p ∈ s.su.peers → p.station = some f.station → p.closing = none → p.early = none →
    (s.su.peers.map (·.station)).Nodup → (∀ q ∈ s.su.peers, q.early = none) →
    let reportFirst := countBoundary c { s with su := receiveFrame c s.it ch (some k) f s.su }
    let t := countBoundary c s
    let boundaryFirst := { t with su := receiveFrame c t.it ch (some k) f t.su }
    ((peerOf reportFirst.su.peers f.station).map (·.closing)
        = (peerOf boundaryFirst.su.peers f.station).map (·.closing))
      ∧ reportFirst.su.misaligned = boundaryFirst.su.misaligned
      ∧ ((peerOf reportFirst.su.peers f.station).map (·.early)
        = (peerOf boundaryFirst.su.peers f.station).map (·.early))

/-- R100, R176: each flag of a record stands at its bit, and bits 14 and 15 are 0. -/
def Obligations.RecordFlagsStandAtTheirBits : Prop :=
  ∀ (f : Figures) (k : Marks),
    let w := recordFlags f k
    w.getLsbD 0 = f.short ∧ w.getLsbD 1 = k.supply ∧ w.getLsbD 2 = k.unaligned ∧ w.getLsbD 3 = k.solo
      ∧ w.getLsbD 4 = k.incomplete ∧ w.getLsbD 5 = false ∧ w.getLsbD 6 = f.held
      ∧ w.getLsbD 7 = f.fault ∧ w.getLsbD 8 = f.curtailed ∧ w.getLsbD 9 = f.cutoff
      ∧ w.getLsbD 10 = decide (f.trim ≠ 0) ∧ w.getLsbD 11 = f.saturated
      ∧ w.getLsbD 12 = k.txFailed ∧ w.getLsbD 13 = k.listenOnly
      ∧ w.getLsbD 14 = false ∧ w.getLsbD 15 = false

/-! ## The group line -/

/-- R57, R58: a frame that joins the send list is a new entry, PENDING on both channels, REPORTs
before PRESENCEs; a list of four entries first loses its oldest PRESENCE, or its oldest REPORT
where it holds no PRESENCE; every other entry stays, in its order. R57: handing over a REPORT or a
PRESENCE. A frame whose kind and ID the list already holds, or that comes while transmit is
barred, is not added; the outcome of a REPORT that joins is pending, and that of a barred one
NOT_SENT. A REPORT that an overflow removes sets the outcome as R60 gives it, SENT where a copy of it
was sent and else NOT_SENT (that R60 holds of it: the model's reading, log 13); nothing else on the line
changes with a joining. What follows a joining at once is `judgeLine` (R59, R60, R62); that a channel
which the overflow frees is judged with it, and not before the frame joins, is the model's choice
(log 27). -/
def Obligations.FramesJoinTheSendList : Prop :=
  (∀ (kind : FrameKind) (id : IntervalId) (net : Int) (l : Line),
    ReportsFirst l.sendList → l.sendList.length ≤ 4 →
    let e : Entry := ⟨l.nextSerial, kind, id, net, .pending, .pending⟩
    let reports (es : List Entry) := es.filter fun x => x.kind == .report
    let presences (es : List Entry) := es.filter fun x => x.kind == .presence
    let kept : List Entry :=
      if l.sendList.length < 4 then l.sendList
      else if presences l.sendList = [] then l.sendList.tail
      else reports l.sendList ++ (presences l.sendList).tail
    (addEntry kind id net l).sendList
        = (match kind with
            | .report => reports kept ++ e :: presences kept
            | .presence => kept ++ [e])
      ∧ (addEntry kind id net l).sendList.length ≤ 4
      ∧ (addEntry kind id net l).nextSerial = l.nextSerial + 1
      ∧ (addEntry kind id net l).l = l.l ∧ (addEntry kind id net l).h = l.h
      ∧ (addEntry kind id net l).barred = l.barred ∧ (addEntry kind id net l).filter = l.filter
      ∧ (l.sendList.length < 4 ∨ presences l.sendList ≠ [] →
          (addEntry kind id net l).outcome = l.outcome)
      ∧ ∀ oldest rest, l.sendList.length = 4 → presences l.sendList = [] →
          l.sendList = oldest :: rest →
          (addEntry kind id net l).outcome
            = if oldest.statusL = .sent ∨ oldest.statusH = .sent then .sent else .notSent)
  ∧ (∀ (live : Bool) (id : IntervalId) (net : Int) (l : Line),
    (l.barred = true → handReport live id net l = { l with outcome := .notSent }
      ∧ handPresence live id l = l)
    ∧ (l.barred = false →
        (∀ e ∈ l.sendList, e.kind = .report → e.id = id → handReport live id net l = l)
        ∧ (∀ e ∈ l.sendList, e.kind = .presence → e.id = id → handPresence live id l = l)
        ∧ ((∀ e ∈ l.sendList, e.kind = .report → e.id ≠ id) →
            handReport live id net l
              = judgeLine live { addEntry .report id net l with outcome := .pending })
        ∧ ((∀ e ∈ l.sendList, e.kind = .presence → e.id ≠ id) →
            handPresence live id l = judgeLine live (addEntry .presence id 0 l))))

/-- RECEPTION_START and RECEIVE_READY (R41, R70): a byte's start on a ready channel begins a
reception and fills the channel's capture; a quiet RXD makes a waiting or discarding channel
ready, while it does not send (log 16). In another receive state nothing happens, nor does a row of
a reception on a channel that is not receiving (the model's reading, log 3). The line after a
count against a channel (R59, R72): saturating at 255; a GOOD channel that reaches 32 becomes
DEGRADED. A frame is MALFORMED in the cases of R71. -/
def Obligations.ReceptionsBeginAndFail : Prop :=
  (∀ (s : State) (ch : Channel), nothingDue s = true →
    let k := chanOf s.line ch
    let capture : Option Capture := some ⟨s.it.elapsed, s.it.id, 0⟩
    (k.recv = .ready →
      exec (.receptionStart ch) s = .next
        { s with
          line := setChan s.line ch { k with recv := .receiving }
          it :=
            (match ch with
              | .l => { s.it with captureL := capture }
              | .h => { s.it with captureH := capture }) })
    ∧ (k.recv ≠ .ready → exec (.receptionStart ch) s = .next s)
    ∧ ((k.recv = .waitQuiet ∨ k.recv = .discarding) → k.access ≠ .sending →
        exec (.receiveReady ch) s = .next
          { s with line := setChan s.line ch { k with recv := .ready } })
    ∧ (k.recv ≠ .waitQuiet → k.recv ≠ .discarding → exec (.receiveReady ch) s = .next s))
  ∧ (∀ (s : State) (ch : Channel), nothingDue s = true → (chanOf s.line ch).state ≠ .off →
    let k := chanOf s.line ch
    let degrades := decide (k.state = .good ∧ 32 ≤ k.errors + 1)
    let counted (r : RecvState) : State :=
      { s with
        line :=
          judgeLine (isLive s)
            (setChan s.line ch
              { k with
                recv := r
                errors := min 255 (k.errors + 1)
                state := if degrades then .degraded else k.state })
        alerts :=
          if degrades then { s.alerts with latches := s.alerts.latches ||| 0x20#9 } else s.alerts }
    (k.recv = .receiving →
      exec (.malformedReception ch) s = .next (counted .discarding)
        ∧ exec (.receptionTimeout ch) s = .next (counted .ready)
        ∧ ∀ (c : Setup) (bytes : List Byte), s.config = some c →
            expectedLength (bytes.getD 0 0) = some bytes.length →
            (frameCheck bytes = false ∨ frameMalformed (readFrame bytes) = true) →
            exec (.completeFrame ch bytes) s = .next (counted .ready))
    ∧ (k.recv ≠ .receiving →
        exec (.malformedReception ch) s = .next s ∧ exec (.receptionTimeout ch) s = .next s
          ∧ ∀ bytes, exec (.completeFrame ch bytes) s = .next s))
  ∧ (∀ f : GroupFrame,
    frameMalformed f = true ↔
      (∃ st blocks, f.body = .presence st blocks ∧ st ≠ 1 ∧ st ≠ 2) ∨ 6 ≤ f.lengthCode
        ∨ perDay f.lengthCode ≤ f.id.iod)

/-- COMPLETE_FRAME (R71, R72, R75): a frame of another group changes nothing but the receive
state; one with the own station number bars transmit, empties the list, cuts the copies in SENDING (the
attempt count unchanged as in R61, the channel waiting for quiet) and returns DEFER and BACKOFF to IDLE
(attempt count 0: the model's reading, log 14), a REPORT among the entries removed setting the outcome as
R60 gives it (the model's reading, log 13); a duplicate counts in the channel's favour and is
dropped. -/
def Obligations.FramesThatAreDropped : Prop :=
  ∀ (s : State) (c : Setup) (ch : Channel) (bytes : List Byte),
    nothingDue s = true → s.config = some c → (chanOf s.line ch).state ≠ .off →
    (chanOf s.line ch).recv = .receiving → expectedLength (bytes.getD 0 0) = some bytes.length →
    frameCheck bytes = true → frameMalformed (readFrame bytes) = false →
    let f := readFrame bytes
    let k := { chanOf s.line ch with recv := .ready }
    (f.group ≠ c.group →
      exec (.completeFrame ch bytes) s = .next { s with line := setChan s.line ch k })
    ∧ (f.group = c.group → f.station = c.station →
        let t := barLine (setChan s.line ch k)
        exec (.completeFrame ch bytes) s = .next
            { s with
              line := t
              alerts := { s.alerts with latches := s.alerts.latches ||| 0x4#9 } }
          ∧ t.sendList = [] ∧ t.barred = true
          ∧ (∀ x, (chanOf t x).access = .idle ∧ (chanOf t x).state = (chanOf s.line x).state
              ∧ (chanOf t x).errors = (chanOf s.line x).errors)
          ∧ t.outcome
              = (match (s.line.sendList.filter fun e => e.kind == .report).getLast? with
                  | none => s.line.outcome
                  | some e => if e.statusL = .sent ∨ e.statusH = .sent then .sent else .notSent)
          ∧ t.filter = s.line.filter ∧ t.nextSerial = s.line.nextSerial
          ∧ ∀ x,
              let k0 := if x = ch then k else chanOf s.line x
              let idle : Chan :=
                { k0 with
                  access := .idle
                  committed := none
                  lapsed := false
                  copy := []
                  gapTimer := none
                  backoffTimer := none
                  echoTimer := none
                  jabberTimer := none }
              (k0.access = .idle → chanOf t x = k0)
                ∧ (k0.access = .defer ∨ k0.access = .backoff →
                    chanOf t x = { idle with attempts := 0 })
                ∧ (k0.access = .sending → chanOf t x = { idle with recv := .waitQuiet }))
    ∧ (f.group = c.group → f.station ≠ c.station →
        (⟨f.station, frameKind f, f.id⟩ : FilterKey) ∈ s.line.filter →
        exec (.completeFrame ch bytes) s = .next
          { s with
            line :=
              judgeLine (isLive s)
                (setChan s.line ch
                  { k with
                    errors := k.errors - 1
                    state := if k.state = .degraded ∧ k.errors ≤ 1 then .good else k.state }) })

/-- COMPLETE_FRAME, ACCEPTED (R71 to R74): the frame counts in the channel's favour, its key
enters the duplicate filter, and in RUN it reaches the Settlement Unit with its channel's capture.
R73: the filter holds an entered key, and no more than four keys under one station and kind; the
key it lets go is the oldest under that station and kind. -/
def Obligations.FrameAcceptedInRun : Prop :=
  (∀ (s : State) (c : Setup) (ch : Channel) (bytes : List Byte),
    nothingDue s = true → s.config = some c → s.supply.op = .run →
    (chanOf s.line ch).state ≠ .off → (chanOf s.line ch).recv = .receiving →
    expectedLength (bytes.getD 0 0) = some bytes.length → frameCheck bytes = true →
    let f := readFrame bytes
    let key : FilterKey := ⟨f.station, frameKind f, f.id⟩
    let k := { chanOf s.line ch with recv := .ready }
    frameMalformed f = false → f.group = c.group → f.station ≠ c.station → key ∉ s.line.filter →
    exec (.completeFrame ch bytes) s = .next
      { s with
        line :=
          { judgeLine true
              (setChan s.line ch
                { k with
                  errors := k.errors - 1
                  state := if k.state = .degraded ∧ k.errors ≤ 1 then .good else k.state }) with
            filter := enterKey key s.line.filter }
        su := receiveFrame c s.it ch (captureOf s.it ch) f s.su })
  ∧ (∀ (k : FilterKey) (f : List FilterKey),
    k ∈ enterKey k f
      ∧ ((keysUnder k f).length ≤ 4 → (keysUnder k (enterKey k f)).length ≤ 4)
      ∧ ((keysUnder k f).length < 4 → enterKey k f = f ++ [k])
      ∧ (4 ≤ (keysUnder k f).length → keysUnder k (enterKey k f) = (keysUnder k f).tail ++ [k])
      ∧ ∀ x, ¬ (x.station = k.station ∧ x.kind = k.kind) → (x ∈ enterKey k f ↔ x ∈ f))

/-- COMPLETE_FRAME, adopted in RESYNC (R154 to R156): the unaligned interval is closed SHORT and
UNALIGNED, RUN is entered at the position the frame and its capture give, and the frame reaches the
Settlement Unit in RUN, where a REPORT is LATE and only its sender's entry changes. The PRESENCE of the
new interval is handed over (R156), and the filter keeps the key of the frame (R73). The Export Limiter
keeps what the closed block left it and its flags start for the new interval (R119, R120); counters and
sample flags are cleared (R29, R49). A frame that gives no timing leaves the part in RESYNC: it counts in
the channel's favour, its key enters the filter, and nothing else changes. -/
def Obligations.AdoptionOfTiming : Prop :=
  ∀ (s : State) (c : Setup) (ch : Channel) (bytes : List Byte) (k : Capture),
    nothingDue s = true → s.config = some c → s.supply.op = .resync →
    (chanOf s.line ch).state ≠ .off → (chanOf s.line ch).recv = .receiving →
    s.it.window = none → captureOf s.it ch = some k →
    expectedLength (bytes.getD 0 0) = some bytes.length → frameCheck bytes = true →
    let f := readFrame bytes
    frameMalformed f = false → f.group = c.group → f.station ≠ c.station →
    (⟨f.station, frameKind f, f.id⟩ : FilterKey) ∉ s.line.filter →
    let line : Line :=
      { judgeLine true
          (setChan s.line ch
            { chanOf s.line ch with
              recv := .ready
              errors := (chanOf s.line ch).errors - 1
              state :=
                if (chanOf s.line ch).state = .degraded ∧ (chanOf s.line ch).errors ≤ 1 then .good
                else (chanOf s.line ch).state }) with
        filter := enterKey ⟨f.station, frameKind f, f.id⟩ s.line.filter }
    (∀ (id : IntervalId) (position : Nat), f.lengthCode = c.lengthCode →
      ((∃ net delay, f.body = .report net delay ∧ id = succId (perDay c.lengthCode) f.id
          ∧ position = delay + k.since)
        ∨ (∃ blocks, f.body = .presence 1 blocks ∧ blocks < 65535 ∧ id = f.id
            ∧ position = 64 * blocks + k.since)) →
      let e := min position (nominalLength c.lengthCode - 1)
      let s1 := closeOpenBlock c true s
      let t : State :=
        { putRecord (earlyRecord c s1 false true false) s1 with
          supply := { s.supply with op := .run }
          it :=
            { s.it with
              id := id
              elapsed := e
              startPos := e
              trim := 0
              length := some (nominalLength c.lengthCode)
              presence := c.presence }
          rb :=
            { s1.rb with
              band := bandFor c.calendar id.iod
              impQuanta := 0
              expQuanta := 0
              saturated := false }
          ne := { s1.ne with heldSeen := false, faultSeen := false }
          el :=
            { s1.el with
              curtailedSeen := !s1.el.shed.isEmpty
              cutoffSeen := s1.el.cutoffLatch }
          line := handPresence true id line
          su :=
            { s.su with
              peers := s.su.peers.map fun p =>
                if p.station = some f.station then
                  { p with
                    early := none
                    state := .present
                    missed := 0
                    lastId := some f.id
                    lastChannel := some ch }
                else { p with early := none } } }
      exec (.completeFrame ch bytes) s = .next t
        ∧ t.ne.blockSets = 0 ∧ t.el.latch = s.el.latch ∧ t.el.cutoffLatch = s.el.cutoffLatch
        ∧ t.sp = s.sp ∧ t.port = s.port ∧ t.config = s.config ∧ t.draws = s.draws
        ∧ (⟨f.station, frameKind f, f.id⟩ : FilterKey) ∈ t.line.filter)
    ∧ (f.lengthCode ≠ c.lengthCode ∨ (∃ blocks, f.body = .presence 2 blocks)
        ∨ (∃ st, f.body = .presence st 65535) →
        exec (.completeFrame ch bytes) s = .next { s with line := line })

/-- CARRIER_SENSE_CHANGE (R63, R64): activity abandons a quiet gap and sends BACKOFF back to
DEFER, its attempt count unchanged; the gap starts when CS falls; the part is otherwise as it was.
QUIET_GAP (R63, R64): the channel enters BACKOFF with a whole number of slots from 0 to 2^min(a+1,
5) - 1, whichever the free draw gives (log 6), and 0 slots end BACKOFF at once, as BACKOFF_END does.
The level that CS already has, and QUIET_GAP outside DEFER or with CS active, change nothing (the
model's reading, log 3). -/
def Obligations.CarrierSenseAndBackoff : Prop :=
  (∀ (s : State) (ch : Channel) (active : Bool), nothingDue s = true →
    let k := chanOf s.line ch
    let k' := { k with cs := active }
    (k.cs = active → exec (.carrierSenseChange ch active) s = .next s)
    ∧ (k.cs ≠ active →
        (k.access = .idle ∨ k.access = .sending ∨ (k.access = .backoff ∧ active = false) →
          exec (.carrierSenseChange ch active) s = .next { s with line := setChan s.line ch k' })
        ∧ (k.access = .defer →
            exec (.carrierSenseChange ch active) s = .next
              { s with
                line :=
                  setChan s.line ch { k' with gapTimer := if active then none else some 32768 } })
        ∧ (k.access = .backoff → active = true →
            exec (.carrierSenseChange ch active) s = .next
              { s with
                line :=
                  setChan s.line ch
                    { k' with
                      access := .defer
                      copy := []
                      gapTimer := none
                      backoffTimer := none
                      echoTimer := none
                      jabberTimer := none } })))
  ∧ (∀ (s : State) (ch : Channel), nothingDue s = true →
    let k := chanOf s.line ch
    (k.access = .defer → k.cs = false →
      ∃ slots, slots ≤ 2 ^ min (k.attempts + 1) 5 - 1
        ∧ let t : State :=
            { s with
              draws := s.draws + 1
              line :=
                setChan s.line ch
                  { k with
                    access := .backoff
                    gapTimer := none
                    backoffTimer := some (slots * 32768) } }
          exec (.quietGap ch) s = if slots = 0 then exec (.backoffEnd ch) t else .next t)
    ∧ (k.access ≠ .defer ∨ k.cs = true → exec (.quietGap ch) s = .next s))

/-- BACKOFF_END (R42, R54 to R56, R64, R65): SENDING begins with the copy's first byte on TXD,
built with the timing of that moment; a REPORT whose delay would exceed 65535 is DROPPED without
an attempt (R56), its channel IDLE with the attempt count it had (the model's reading, log 14). The
echo of a byte is due two byte times after its stop bit (R65), 12,800 ticks from its start as the model
rounds the byte time before them (log 1, DEDUCED); what marking an entry does is opened in
`Obligations.AttemptsEnd`. R52: in
SENDING TXEN is active and TXD carries a start bit, eight data bits, the least significant first,
and the stop bit, and otherwise TXD rests at the stop level; the ten bits are received as that byte,
with a byte error where the stop bit is not at the stop level (the polarity of a data bit: log 26). -/
def Obligations.BackoffEndBeginsSending : Prop :=
  (∀ (s : State) (c : Setup) (ch : Channel) (e : Entry),
    nothingDue s = true → s.config = some c →
    let k := chanOf s.line ch
    k.access = .backoff → k.cs = false → k.committed = some e.serial →
    (s.line.sendList.find? fun x => x.serial == e.serial) = some e →
    let bytes :=
      match e.kind with
      | .report => reportFrame c e.id e.net s.it.elapsed
      | .presence => presenceFrame c s.supply.op s.it.id (min 65535 (s.it.elapsed / 64))
    (e.kind = .presence ∨ s.it.elapsed ≤ 65535 →
      exec (.backoffEnd ch) s = .next
        { s with
          line :=
            setChan s.line ch
              { k with
                access := .sending
                copy := bytes
                recv := .discarding
                gapTimer := none
                backoffTimer := none
                echoTimer := some 12800
                jabberTimer := some 163840 } })
    ∧ (e.kind = .report → 65535 < s.it.elapsed →
        exec (.backoffEnd ch) s = .next
          { s with
            line :=
              judgeLine (isLive s)
                (setChan (setStatus ch .dropped k.committed s.line) ch
                  { k with
                    access := .idle
                    committed := none
                    lapsed := false
                    copy := []
                    gapTimer := none
                    backoffTimer := none
                    echoTimer := none
                    jabberTimer := none }) }))
  ∧ (∀ (s : State) (ch : Channel),
    let k := chanOf s.line ch
    (txenPin s ch = true ↔ k.access = .sending)
      ∧ (k.access ≠ .sending → ∀ n, txdPin s ch n = true)
      ∧ ∀ (b : Byte) (rest : List Byte), k.access = .sending → k.copy = b :: rest →
          txdPin s ch 0 = false ∧ (∀ i, i < 8 → txdPin s ch (i + 1) = b.getLsbD i)
            ∧ ∀ n, 9 ≤ n → txdPin s ch n = true)
  ∧ (∀ b : Byte,
    receiveSerial (serialBits b) = (b, false) ∧ receiveSerial ((serialBits b).set 9 false) = (b, true))

/-- ECHO, MISSING_ECHO and JABBER_GUARD of a channel in SENDING (R65 to R69): a matching echo
moves to the next byte, whose own echo is then timed with 12,800 ticks (the rounding of the byte time in
it: log 1, DEDUCED), and after the last byte the copy is SENT; a differing or faulty one is a
failed attempt, a missing one too, counting against the channel; the guard cuts the copy and makes
the channel FAULT. After a failed attempt the channel tries again, drops the entry at the eighth
failure, or returns to IDLE where its entry has left the list or it is out of the sending set (R59,
R66, R68), also where it has come back into the set since it left (the model's reading, log 15). A
channel that does not send has no attempt to end: ECHO, MISSING_ECHO and
JABBER_GUARD change nothing, and neither does BACKOFF_END outside BACKOFF (R64 to R69; the model's
reading, log 3). Marking the committed entry (R65, R68): its status on that channel alone becomes SENT or
DROPPED, every other entry and status, both channels and the rest of the line staying as they are; a
REPORT in the list that is marked SENT makes the report outcome SENT (R60), and an entry that has left the
list records nothing (R68). -/
def Obligations.AttemptsEnd : Prop :=
  (∀ (s : State) (ch : Channel) (first : Byte) (rest : List Byte), nothingDue s = true →
    let k := chanOf s.line ch
    k.access = .sending → k.copy = first :: rest →
    let idle : Chan :=
      { k with
        access := .idle
        committed := none
        lapsed := false
        copy := []
        recv := .waitQuiet
        gapTimer := none
        backoffTimer := none
        echoTimer := none
        jabberTimer := none }
    (rest ≠ [] →
      exec (.echo ch first false) s = .next
        { s with line := setChan s.line ch { k with copy := rest, echoTimer := some 12800 } })
    ∧ (rest = [] →
        exec (.echo ch first false) s = .next
          { s with
            line :=
              judgeLine (isLive s)
                (setChan (setStatus ch .sent k.committed s.line) ch { idle with attempts := 0 }) })
    ∧ (∀ (byte : Byte) (byteError : Bool), byteError = true ∨ byte ≠ first →
        (inList s.line.sendList k.committed = true → k.attempts < 7 → k.lapsed = false →
            inSendingSet s.line ch = true →
          exec (.echo ch byte byteError) s = .next
            { s with
              line :=
                judgeLine (isLive s)
                  (setChan s.line ch
                    { idle with
                      access := .defer
                      committed := k.committed
                      attempts := k.attempts + 1
                      gapTimer := if k.cs then none else some 32768 }) })
        ∧ (inList s.line.sendList k.committed = true → 7 ≤ k.attempts →
            exec (.echo ch byte byteError) s = .next
              { s with
                line :=
                  judgeLine (isLive s)
                    (setChan (setStatus ch .dropped k.committed s.line) ch
                      { idle with attempts := 0 }) })
        ∧ (inList s.line.sendList k.committed = false
              ∨ (k.attempts < 7 ∧ (k.lapsed = true ∨ inSendingSet s.line ch = false)) →
            exec (.echo ch byte byteError) s = .next
              { s with
                line := judgeLine (isLive s) (setChan s.line ch { idle with attempts := 0 }) }))
    ∧ (k.state = .good ∨ k.state = .degraded →
        let degrades := decide (k.state = .good ∧ 32 ≤ k.errors + 1)
        let counted : Line :=
          setChan s.line ch
            { k with
              errors := min 255 (k.errors + 1)
              state := if degrades then .degraded else k.state }
        let l1 := judgeLine (isLive s) counted
        let k1 := chanOf l1 ch
        let idle1 : Chan :=
          { idle with errors := k1.errors, state := k1.state, attempts := 0 }
        let ends (l : Line) : State :=
          { s with
            line := l
            alerts :=
              if degrades then { s.alerts with latches := s.alerts.latches ||| 0x20#9 } else s.alerts }
        k1 = { chanOf counted ch with lapsed := k.lapsed || !inSendingSet counted ch }
          ∧ (inList l1.sendList k.committed = true → k.attempts < 7 → k1.lapsed = false →
              exec (.missingEcho ch) s = .next
                (ends
                  (judgeLine (isLive s)
                    (setChan l1 ch
                      { idle1 with
                        access := .defer
                        committed := k.committed
                        attempts := k.attempts + 1
                        gapTimer := if k.cs then none else some 32768 }))))
          ∧ (inList l1.sendList k.committed = true → 7 ≤ k.attempts →
              exec (.missingEcho ch) s = .next
                (ends
                  (judgeLine (isLive s)
                    (setChan (setStatus ch .dropped k.committed l1) ch idle1))))
          ∧ (inList l1.sendList k.committed = false ∨ (k.attempts < 7 ∧ k1.lapsed = true) →
              exec (.missingEcho ch) s = .next
                (ends (judgeLine (isLive s) (setChan l1 ch idle1)))))
    ∧ exec (.jabberGuard ch) s = .next
        { s with
          line := judgeLine (isLive s) (setChan s.line ch { idle with state := .fault })
          alerts := { s.alerts with latches := s.alerts.latches ||| 0x20#9 } })
  ∧ (∀ (s : State) (ch : Channel) (byte : Byte) (byteError : Bool), nothingDue s = true →
    ((chanOf s.line ch).access ≠ .sending →
      exec (.echo ch byte byteError) s = .next s ∧ exec (.missingEcho ch) s = .next s
        ∧ exec (.jabberGuard ch) s = .next s)
    ∧ ((chanOf s.line ch).access ≠ .backoff ∨ (chanOf s.line ch).cs = true →
        exec (.backoffEnd ch) s = .next s))
  ∧ (∀ (ch : Channel) (st : CopyStatus) (committed : Option Nat) (l : Line),
    let t := setStatus ch st committed l
    let sentReport := st = .sent ∧ ∃ e ∈ l.sendList, e.kind = .report ∧ committed = some e.serial
    t.sendList.length = l.sendList.length
      ∧ (∀ (n : Nat) (e : Entry), l.sendList[n]? = some e →
          (committed ≠ some e.serial → t.sendList[n]? = some e)
          ∧ (committed = some e.serial →
              t.sendList[n]?
                = some (match ch with
                    | .l => { e with statusL := st }
                    | .h => { e with statusH := st })))
      ∧ (sentReport → t.outcome = .sent) ∧ (¬ sentReport → t.outcome = l.outcome)
      ∧ t = { l with sendList := t.sendList, outcome := t.outcome }
      ∧ (inList l.sendList committed = true ↔ ∃ e ∈ l.sendList, committed = some e.serial))

/-- ENABLE_CHANNEL (R59, R60, R76, R178): channel 0 L, 1 H; action 0 DISABLE, 1 ENABLE. -/
def Obligations.EnableChannel : Prop :=
  ∀ (s : State) (channel action : Byte), nothingDue s = true → isLive s = true →
    s.port.serving = true →
    let taken := [0x0D#8, channel, action]
    (1 < channel.toNat ∨ 1 < action.toNat →
      exec (.enableChannel channel action) s = .next (answered taken 0xA3#8 [] s))
    ∧ ∀ ch, channel.toNat = (match ch with | .l => 0 | .h => 1) →
        let k := chanOf s.line ch
        let idle : Chan :=
          { k with
            access := .idle
            attempts := 0
            committed := none
            lapsed := false
            copy := []
            gapTimer := none
            backoffTimer := none
            echoTimer := none
            jabberTimer := none }
        (action.toNat = 1 → k.state = .good ∨ k.state = .degraded →
          exec (.enableChannel channel action) s = .next (answered taken 0xA6#8 [] s))
        ∧ (action.toNat = 1 → k.state = .off ∨ k.state = .fault →
            exec (.enableChannel channel action) s = .next
              (answered taken 0xA0#8 []
                { s with
                  line :=
                    judgeLine true
                      (setChan s.line ch
                        { idle with state := .good, errors := 0, recv := .waitQuiet }) }))
        ∧ (action.toNat = 0 → k.state = .off →
            exec (.enableChannel channel action) s = .next (answered taken 0xA6#8 [] s))
        ∧ (action.toNat = 0 → k.state ≠ .off →
            exec (.enableChannel channel action) s = .next
              (answered taken 0xA0#8 []
                { s with
                  line :=
                    judgeLine true (setChan s.line ch { idle with state := .off, recv := .off }) }))

/-- R54 to R56, R70, R174, R175: the part's own frames, as another station of the group reads
them: of the expected length, passing the CRC-16, with every field as it was sent. Any received frame:
its fields at the offsets of R175, reserved bits ignored; the length its kind fixes (R70); the check of
R56, whose CRC-16 is the remainder of the division by 0x2D47 from 0xFFFF, bit by bit, each byte most
significant bit first. R174: a field is read most significant byte first, a signed one in two's
complement. -/
def Obligations.OwnFramesReadBack : Prop :=
  (∀ (c : Setup) (id : IntervalId), c.station < 16 → c.group < 256 → c.lengthCode < 8 →
    id.day < 65536 → id.iod < 65536 →
    (∀ (net : Int) (delay : Nat), -2 ^ 31 ≤ net → net < 2 ^ 31 → delay < 65536 →
      let bytes := reportFrame c id net delay
      bytes.length = 15 ∧ expectedLength (bytes.getD 0 0) = some 15 ∧ frameCheck bytes = true
        ∧ readFrame bytes = ⟨c.station, c.group, id, c.lengthCode, .report net delay⟩)
    ∧ (∀ (op : OpState) (blocks : Nat), op = .run ∨ op = .resync → blocks < 65536 →
        let bytes := presenceFrame c op id blocks
        bytes.length = 11 ∧ expectedLength (bytes.getD 0 0) = some 11 ∧ frameCheck bytes = true
          ∧ readFrame bytes
              = ⟨c.station, c.group, id, c.lengthCode,
                  .presence (if op = .run then 1 else 2) blocks⟩))
  ∧ (∀ bytes : List Byte,
    let bits := bytes.flatMap fun b => (List.range 8).map fun i => b.getLsbD (7 - i)
    let first := (bytes.getD 0 0x00#8).toNat
    crc16 bytes
        = bits.foldl
            (fun (r : BitVec 16) bit => if r.msb != bit then (r <<< 1) ^^^ 0x2D47#16 else r <<< 1)
            0xFFFF#16
      ∧ (frameCheck bytes = true ↔
          (crc16 (bytes.take (bytes.length - 2))).toNat = fieldAt bytes (bytes.length - 2) 2)
      ∧ (first / 16 = 1 → bytes.length = 15 →
          readFrame bytes
            = { station := first % 16, group := fieldAt bytes 1 1
                id := ⟨fieldAt bytes 2 2, fieldAt bytes 4 2⟩, lengthCode := fieldAt bytes 10 1 % 8
                body := .report (signedOf (bytesAt bytes 6 4)) (fieldAt bytes 11 2) })
      ∧ (first / 16 = 2 → bytes.length = 11 →
          readFrame bytes
            = { station := first % 16, group := fieldAt bytes 1 1
                id := ⟨fieldAt bytes 3 2, fieldAt bytes 5 2⟩, lengthCode := fieldAt bytes 2 1 % 8
                body := .presence (fieldAt bytes 2 1 / 16) (fieldAt bytes 7 2) })
      ∧ (∀ n off : Nat, off + n < bytes.length →
          fieldAt bytes off 0 = 0
            ∧ fieldAt bytes off (n + 1)
                = 256 * fieldAt bytes off n + (bytes.getD (off + n) 0x00#8).toNat)
      ∧ signedOf bytes % 256 ^ bytes.length = beNat bytes
      ∧ -(256 ^ bytes.length) ≤ 2 * signedOf bytes ∧ 2 * signedOf bytes < 256 ^ bytes.length)
  ∧ (∀ b : Byte,
    expectedLength b
      = if b.toNat / 16 = 1 then some 15 else if b.toNat / 16 = 2 then some 11 else none)

/-! ## The record store -/

/-- R131, R132: merging an arriving record, which is always unmerged, into the held entry of its
band, field by field; the reserved bytes stay 0, and the band totals keep every quantum. -/
def Obligations.MergeOfRecords : Prop :=
  ∀ (held new : Record), new.mergeCount = 1 → new.flags.getLsbD 5 = false → held.band = new.band →
    let t := mergeRecord held new
    let quanta := 2 ^ 32 - 1
    let sums := 2 ^ 40 - 1
    t.firstId = held.firstId ∧ t.lastId = new.lastId ∧ t.band = held.band ∧ t.band = new.band
      ∧ t.mergeCount = (if held.mergeCount < 255 then held.mergeCount + 1 else 255)
      ∧ (∀ n, t.heard.getLsbD n = (held.heard.getLsbD n && new.heard.getLsbD n))
      ∧ t.expected = max held.expected new.expected ∧ t.trim = held.trim
      ∧ t.impQuanta = (if quanta < held.impQuanta + new.impQuanta then quanta
          else held.impQuanta + new.impQuanta)
      ∧ t.expQuanta = (if quanta < held.expQuanta + new.expQuanta then quanta
          else held.expQuanta + new.expQuanta)
      ∧ t.share = (if quanta < held.share + new.share then quanta else held.share + new.share)
      ∧ t.m = (if sums < held.m + new.m then sums else held.m + new.m)
      ∧ t.x = (if sums < held.x + new.x then sums else held.x + new.x)
      ∧ (∀ n, n ≠ 5 → n ≠ 11 →
          t.flags.getLsbD n = (held.flags.getLsbD n || new.flags.getLsbD n))
      ∧ t.flags.getLsbD 5 = true
      ∧ (t.flags.getLsbD 11 = true ↔
          held.flags.getLsbD 11 = true ∨ new.flags.getLsbD 11 = true
            ∨ quanta < held.impQuanta + new.impQuanta ∨ quanta < held.expQuanta + new.expQuanta
            ∨ quanta < held.share + new.share ∨ sums < held.m + new.m ∨ sums < held.x + new.x)
      ∧ (recordBytes t).drop 38 = [0x00#8, 0x00#8]
      ∧ ∀ s : State, (putRecord new s).rb = s.rb

/-- R127 to R129: an open store takes a record into the slot at the write position and reads it back
there; every other slot of every page reads as before, and every other page stands as it was; the slot
advances, the page FILLING, and the sixteenth record leaves the page SEALED and moves on in ring order;
RECORD latches, and STORE_BLOCKED where the next page is SEALED. A store is blocked exactly while the
page at its write position is SEALED (R127). R130: a blocked store merges a record into the held entry
of its band, in its place, or appends it; the pages and the alerts are as they were. Nothing but the store
and, in an open store, the latches changes. -/
def Obligations.RecordsReachTheStore : Prop :=
  (∀ (s : State) (r : Record), PagesLaw s.store → storeBlocked s.store = false →
    let t := (putRecord r s).store
    let blocks := s.store.writeSlot = 15
      ∧ (s.store.pages[(s.store.writePage + 1) % 16]?.map (·.state)) = some .sealed
    recordAt t s.store.writePage s.store.writeSlot = some r
      ∧ (∀ p n, ¬ (p = s.store.writePage ∧ n = s.store.writeSlot) →
          recordAt t p n = recordAt s.store p n)
      ∧ recordAt s.store s.store.writePage s.store.writeSlot = none
      ∧ (s.store.writeSlot < 15 →
          t.writePage = s.store.writePage ∧ t.writeSlot = s.store.writeSlot + 1
            ∧ (t.pages[s.store.writePage]?.map (·.state)) = some .filling)
      ∧ (s.store.writeSlot = 15 →
          t.writePage = (s.store.writePage + 1) % 16 ∧ t.writeSlot = 0
            ∧ (t.pages[s.store.writePage]?.map (·.state)) = some .sealed)
      ∧ (∀ n, n ≠ s.store.writePage → t.pages[n]? = s.store.pages[n]?)
      ∧ t.pages.length = s.store.pages.length
      ∧ t.held = s.store.held
      ∧ (storeBlocked t = true ↔ blocks)
      ∧ (putRecord r s).alerts.latches
          = s.alerts.latches ||| (if storeBlocked t then 0x108#9 else 0x100#9)
      ∧ putRecord r s
          = { s with
              store := t
              alerts := { s.alerts with latches := (putRecord r s).alerts.latches } })
  ∧ (∀ (s : State) (r : Record), storeBlocked s.store = true →
    (∀ before e after, s.store.held = before ++ e :: after → e.band = r.band →
      (∀ x ∈ before, x.band ≠ r.band) →
      putRecord r s =
        { s with store := { s.store with held := before ++ mergeRecord e r :: after } })
    ∧ ((∀ x ∈ s.store.held, x.band ≠ r.band) →
        putRecord r s = { s with store := { s.store with held := s.store.held ++ [r] } }))
  ∧ (∀ t : Store,
    (storeBlocked t = true ↔ (t.pages[t.writePage]?.map (·.state)) = some .sealed)
      ∧ ∀ p n, recordAt t p n = (t.pages[p]?).bind fun page => page.records[n]?)

/-- RELEASE_PAGE (R134, R135): a SEALED page becomes EMPTY; where it stands at the write position
the held entries go to its first slots in list order, each latching RECORD, and the store is open.
FILLING pages are refused, EMPTY ones NOTHING, numbers above 15 BAD_ARG; every other page reads as
before. -/
def Obligations.ReleasePage : Prop :=
  ∀ (s : State) (page : Byte), nothingDue s = true → s.port.serving = true → StoreLaw s.store →
    let n := page.toNat
    let taken := [0x05#8, page]
    (15 < n → exec (.releasePage page) s = .next (answered taken 0xA3#8 [] s))
    ∧ ∀ p, s.store.pages[n]? = some p →
        (p.state = .filling → exec (.releasePage page) s = .next (answered taken 0xA2#8 [] s))
        ∧ (p.state = .empty → exec (.releasePage page) s = .next (answered taken 0xA6#8 [] s))
        ∧ (p.state = .sealed → n ≠ s.store.writePage →
            exec (.releasePage page) s = .next
              (answered taken 0xA0#8 []
                { s with
                  store := { s.store with pages := s.store.pages.set n ⟨.empty, []⟩ } }))
        ∧ (p.state = .sealed → n = s.store.writePage →
            let held := s.store.held
            let page' : Page := if held = [] then ⟨.empty, []⟩ else ⟨.filling, held⟩
            exec (.releasePage page) s = .next
              (answered taken 0xA0#8 []
                { s with
                  store :=
                    { pages := s.store.pages.set n page', writePage := n
                      writeSlot := held.length, held := [] }
                  alerts :=
                    if held = [] then s.alerts
                    else { s.alerts with latches := s.alerts.latches ||| 0x100#9 } }))

/-! ## Start, hold and resynchronisation -/

/-- HOLD_ENTRY (R36, R40, R77, R81, R98, R101 to R104, R121, R149 to R151): from RUN and RESYNC
the open block is closed without being judged, an open window settled, and the interval closed
SHORT and SUPPLY; from START nothing is closed; then every block takes its values in HOLD: on the line
both channels are IDLE with attempt count 0 and their receivers off, the list and the filter empty and
the outcome none, the channel states, error counters and the barred flag kept (R77). A window
close that is due with the entry comes after it (R153): the window is settled early and its trim
never applied. In HOLD this row has no effect (log 18). -/
def Obligations.HoldEntry : Prop :=
  ∀ (s : State) (still : Bool), nothingDue s = true → s.supply.resetHeld = false →
    let silent (k : Chan) : Chan :=
      { k with
        access := .idle
        attempts := 0
        committed := none
        lapsed := false
        recv := .off
        copy := []
        gapTimer := none
        backoffTimer := none
        echoTimer := none
        jabberTimer := none }
    let held (ret : OpState) (v : State) : State :=
      { v with
        supply :=
          { s.supply with
            op := .hold
            ret := ret
            pfw := still
            release := if still then none else some 819200 }
        sp := SamplePort.reset
        it :=
          { v.it with
            elapsed := 0
            startPos := 0
            trim := 0
            window := none
            captureL := none
            captureH := none }
        line :=
          { v.line with
            l := silent v.line.l
            h := silent v.line.h
            sendList := []
            outcome := .noReport
            filter := [] }
        su :=
          { peers := v.su.peers.map fun p => ⟨p.station, .absent, none, none, 0, false, none, none⟩
            closing := none
            misaligned := false
            streak := 0
            summary := { v.su.summary with valid := false } }
        el :=
          { v.el with
            shed := []
            overCount := 0
            underCount := 0
            holdOff := 0
            settling := false
            curtailedSeen := false
            cutoffSeen := false }
        alerts := { v.alerts with latches := v.alerts.latches ||| 1#9 } }
    (s.supply.op = .hold → exec (.holdEntry still) s = .next s)
    ∧ (s.supply.op = .start → exec (.holdEntry still) s = .next (held .start s))
    ∧ ∀ c, s.config = some c → isLive s = true →
        let run := s.supply.op = .run
        let s1 := settleOpenWindow c (closeOpenBlock c false s)
        let net : Int := (s1.rb.impQuanta : Int) - s1.rb.expQuanta
        let r := earlyRecord c s1 true (decide (s.supply.op = .resync)) (decide run)
        exec (.holdEntry still) s = .next
          (held .resync
            { putRecord r s1 with
              rb := { s1.rb with impQuanta := 0, expQuanta := 0, saturated := false }
              ne := { s1.ne with heldSeen := false, faultSeen := false }
              el := { s1.el with pendingCap := some c.baseCap }
              su :=
                { s1.su with
                  summary :=
                    if run then ⟨net.toNat, (-net).toNat, if net < 0 then 1 else 0, false⟩
                    else s1.su.summary } })

/-- PFW_INACTIVE and PFW_ACTIVE_IN_HOLD (R151): in HOLD the release timer starts from 0 as PFW
becomes inactive, and stops as PFW becomes active. Elsewhere these rows have no effect (log 3).
RELEASE_TIMER (R152), PFW being inactive: HOLD is left for the return state with SUPPLY latched
again; for RESYNC the Sample Port leaves IDLE, the channels wait for quiet, the settling flag is
set, the next ID's unaligned interval begins and a PRESENCE is handed over. With the timer stopped
nothing happens. -/
def Obligations.LeavingHold : Prop :=
  (∀ s : State,
    (s.supply.op = .hold → s.supply.pfw = true →
      exec .pfwInactive s = .next
        { s with supply := { s.supply with pfw := false, release := some 819200 } })
    ∧ (s.supply.op ≠ .hold ∨ s.supply.pfw = false → exec .pfwInactive s = .next s)
    ∧ (s.supply.op = .hold →
        exec .pfwActiveInHold s = .next
          { s with supply := { s.supply with pfw := true, release := none } })
    ∧ (s.supply.op ≠ .hold → exec .pfwActiveInHold s = .next s))
  ∧ (∀ s : State, s.supply.op = .hold →
    (s.supply.release = none → exec .releaseTimer s = .next s)
    ∧ (s.supply.release ≠ none → s.supply.pfw = false →
        (s.supply.ret = .start →
          exec .releaseTimer s = .next
            { s with
              supply := { s.supply with op := .start, release := none }
              alerts := { s.alerts with latches := s.alerts.latches ||| 1#9 } })
        ∧ ∀ c, s.config = some c → s.supply.ret = .resync →
            let next := succId (perDay c.lengthCode) s.it.id
            let waits (k : Chan) : Chan := if k.state = .off then k else { k with recv := .waitQuiet }
            exec .releaseTimer s = .next
              { s with
                supply := { s.supply with op := .resync, release := none }
                alerts := { s.alerts with latches := s.alerts.latches ||| 1#9 }
                sp :=
                  { s.sp with
                    state := .running
                    expected := none
                    missing := 0
                    watchdog := some 3840 }
                it :=
                  { s.it with
                    id := next
                    elapsed := 0
                    startPos := 0
                    trim := 0
                    length := some (nominalLength c.lengthCode) }
                rb := { s.rb with band := .unbanded }
                el :=
                  { s.el with
                    settling := true
                    curtailedSeen := !s.el.shed.isEmpty
                    cutoffSeen := s.el.cutoffLatch }
                line :=
                  handPresence true next { s.line with l := waits s.line.l, h := waits s.line.h } }))

/-- LOAD_CONFIG, accepted in START (R28, R50, R53, R78, R105, R145 to R148): every block takes its
items, and the part enters RUN at the day position or RESYNC at (0, 0). Where PFW is active then,
the HOLD entry follows in the same event, as HOLD_ENTRY takes it from that state (R149, R153). R145,
R177: the block that carries a configuration, as the layout puts it, has 126 bytes, is read back
field for field with W clamped (R146), and passes exactly where every field of the table passes. -/
def Obligations.LoadConfigAccepted : Prop :=
  (∀ (s : State) (block : List Byte), s.config = none → s.supply.op = .start →
    s.port.serving = true → block.length = 126 →
    let valid := s.supply.retentionValid
    configFailure block (if valid then s.supply.retainedQ else none) = none →
    let c := configSetup block
    let opening := configOpening block
    let run := configDayPosition block
    let id : IntervalId := (run.map (·.id)).getD ⟨0, 0⟩
    let elapsed := (run.map (·.elapsed)).getD 0
    let enabled (on : Bool) (k : Chan) : Chan :=
      let k' := if on then { k with state := .good, errors := 0 } else k
      if k'.state = .off then k' else { k' with recv := .waitQuiet }
    let result := if valid && opening.isSome then 0xA1#8 else 0xA0#8
    let accepted : State :=
      { s with
        config := some c
        supply :=
          { s.supply with
            op := if run.isSome then .run else .resync
            retentionValid := true
            retainedQ := some c.quantum }
        sp :=
          { s.sp with
            state := .running
            expected := none
            missing := 0
            watchdog := some 3840 }
        ne :=
          if valid then s.ne else { s.ne with residueImport := 0, residueExport := 0 }
        it :=
          { s.it with
            id := id
            elapsed := elapsed
            startPos := elapsed
            trim := 0
            length := some (nominalLength c.lengthCode)
            presence := c.presence }
        rb :=
          { s.rb with
            band := if run.isSome then bandFor c.calendar id.iod else .unbanded
            totals := if valid then s.rb.totals else opening.getD s.rb.totals }
        line :=
          handPresence true id
            { s.line with l := enabled c.enableL s.line.l, h := enabled c.enableH s.line.h }
        su :=
          { s.su with
            peers :=
              ((List.range 16).filter fun n => n != c.station).map fun n =>
                ⟨some n, .absent, none, none, 0, false, none, none⟩ }
        el :=
          { s.el with
            effectiveCap := some c.baseCap
            pendingCap := none
            settling := true
            curtailedSeen := !s.el.shed.isEmpty
            cutoffSeen := s.el.cutoffLatch } }
    (s.supply.pfw = false →
      exec (.loadConfig block) s = .next (answered (0x01#8 :: block) result [] accepted))
    ∧ (s.supply.pfw = true → s.ne.blockSets = 0 → s.supply.resetHeld = false →
        ∃ t, exec (.holdEntry true) accepted = .next t
          ∧ exec (.loadConfig block) s = .next (answered (0x01#8 :: block) result [] t)))
  ∧ (∀ (c : Setup) (pos : Option DayPosition) (opening : Option Totals) (w : Nat),
    c.station < 256 → c.group < 256 → c.gain1 < 65536 → c.gain2 < 65536 → c.gain3 < 65536 →
    c.quantum < 2 ^ 40 → c.lengthCode < 256 → c.calendar.length ≤ 8 →
    (∀ p ∈ c.calendar, p.iod < 65536 ∧ p.band ≠ .unbanded) → c.baseCap < 2 ^ 40 →
    c.ceilingCap < 2 ^ 40 → c.holdOffLength < 65536 → c.restoreCount < 65536 → c.presence < 256 →
    w < 2 ^ 32 → c.creep < 2 ^ 32 →
    (∀ p, pos = some p → p.id.day < 65536 ∧ p.id.iod < 65536 ∧ p.elapsed < 2 ^ 32) →
    (∀ t b, opening = some t → (totalsOf t b).imp < 2 ^ 40 ∧ (totalsOf t b).exp < 2 ^ 40) →
    let block := configBlock { c with window := w } pos opening
    let d := perDay c.lengthCode
    let length := nominalLength c.lengthCode
    block.length = 126
      ∧ configSetup block = { c with window := max 3200 (min w (length / 2)) }
      ∧ configDayPosition block = pos ∧ configOpening block = opening
      ∧ ∀ retained : Option Nat,
          configFailure block retained = none ↔
            c.station ≤ 15 ∧ 1 ≤ c.group ∧ (c.phase1 = true ∨ c.phase2 = true ∨ c.phase3 = true)
              ∧ (16384 ≤ c.gain1 ∧ c.gain1 ≤ 49151) ∧ (16384 ≤ c.gain2 ∧ c.gain2 ≤ 49151)
              ∧ (16384 ≤ c.gain3 ∧ c.gain3 ≤ 49151)
              ∧ 2 ^ 24 ≤ c.quantum ∧ (∀ q, retained = some q → c.quantum = q)
              ∧ c.lengthCode ≤ 5
              ∧ c.calendar.Pairwise (fun a b => a.iod < b.iod) ∧ (∀ p ∈ c.calendar, p.iod < d)
              ∧ c.baseCap ≤ c.ceilingCap
              ∧ (10 ≤ c.holdOffLength ∧ c.holdOffLength ≤ 1000)
              ∧ (50 ≤ c.restoreCount ∧ c.restoreCount ≤ 30000)
              ∧ (c.enableL = true ∨ c.enableH = true) ∧ 1 ≤ c.presence
              ∧ (∀ p, pos = some p → p.id.iod < d ∧ p.elapsed < length))

/-! ## The readout port and the alerts -/

/-- R44, R76, R112, R118, R157, R163, R166: the commands that START and HOLD refuse, and RESYNC
outside RUN, answer REFUSED_STATE whatever their arguments and change nothing else. LOAD_CONFIG
refused (R145, R163): outside START, REFUSED_STATE; in START, BAD_CONFIG with the index of the
first field that fails, every field before it passing; nothing changes but the response. The sixteen
fields of any block, at the offsets of R177, and what each passes on (R145); a block is accepted exactly
where all pass. -/
def Obligations.RefusedCommandsChangeNothing : Prop :=
  (∀ (s : State) (a b : Byte) (day iod : BitVec 16) (elapsed : BitVec 32), nothingDue s = true →
    s.port.serving = true →
    (isLive s = false →
      exec (.writeLines a b) s = .next (answered [0x06#8, a, b] 0xA2#8 [] s)
        ∧ exec .releaseCutoff s = .next (answered [0x07#8] 0xA2#8 [] s)
        ∧ exec (.setDayPosition day iod elapsed) s
            = .next
                (answered
                  (0x0B#8 :: (beBytes 2 day.toNat ++ beBytes 2 iod.toNat ++ beBytes 4 elapsed.toNat))
                  0xA2#8 [] s)
        ∧ exec (.readPeer a) s = .next (answered [0x0C#8, a] 0xA2#8 [] s)
        ∧ exec (.enableChannel a b) s = .next (answered [0x0D#8, a, b] 0xA2#8 [] s))
    ∧ (s.supply.op ≠ .run → exec .resync s = .next (answered [0x0E#8] 0xA2#8 [] s)))
  ∧ (∀ (s : State) (block : List Byte), nothingDue s = true → s.port.serving = true →
    block.length = 126 →
    (s.supply.op ≠ .start →
      exec (.loadConfig block) s = .next (answered (0x01#8 :: block) 0xA2#8 [] s))
    ∧ ∀ n, s.supply.op = .start →
        let checks :=
          configChecks block (if s.supply.retentionValid then s.supply.retainedQ else none)
        (n, false) ∈ checks → (∀ i ok, (i, ok) ∈ checks → i < n → ok = true) →
        exec (.loadConfig block) s
          = .next (answered (0x01#8 :: block) 0xA4#8 [BitVec.ofNat 8 n] s))
  ∧ (∀ (block : List Byte) (retained : Option Nat),
    let byte (off : Nat) : Nat := fieldAt block off 1
    let pair (off : Nat) : Nat := fieldAt block off 2
    let q := fieldAt block 10 5
    let d := perDay (byte 15)
    let point (k : Nat) : Nat := pair (17 + 3 * k)
    let passes (n : Nat) : Prop :=
      match n with
      | 1 => byte 0 ≤ 15
      | 2 => 1 ≤ byte 1
      | 3 => 1 ≤ byte 2 ∧ byte 2 ≤ 7
      | 4 => 16384 ≤ pair 3 ∧ pair 3 ≤ 49151
      | 5 => 16384 ≤ pair 5 ∧ pair 5 ≤ 49151
      | 6 => 16384 ≤ pair 7 ∧ pair 7 ≤ 49151
      | 7 => byte 9 = 0 ∨ byte 9 = 1
      | 8 => 2 ^ 24 ≤ q ∧ q ≤ 2 ^ 40 - 1 ∧ ∀ kept, retained = some kept → q = kept
      | 9 => byte 15 ≤ 5
      | 10 =>
          byte 16 ≤ 8
            ∧ ∀ k, k < byte 16 →
                point k < d ∧ byte (19 + 3 * k) ≤ 3 ∧ (k + 1 < byte 16 → point k < point (k + 1))
      | 11 => fieldAt block 41 5 ≤ fieldAt block 46 5
      | 12 => 10 ≤ pair 51 ∧ pair 51 ≤ 1000
      | 13 => 50 ≤ pair 53 ∧ pair 53 ≤ 30000
      | 14 => byte 55 % 4 ≠ 0
      | 15 => 1 ≤ byte 56
      | 16 =>
          byte 57 = 0
            ∨ (byte 57 = 1 ∧ pair 60 < d ∧ fieldAt block 62 4 < nominalLength (byte 15))
      | _ => False
    (configChecks block retained).map (·.1) = (List.range 16).map (· + 1)
      ∧ (∀ n ok, (n, ok) ∈ configChecks block retained → (ok = true ↔ passes n))
      ∧ (configFailure block retained = none ↔ ∀ n, 1 ≤ n → n ≤ 16 → passes n))

/-- READ_STATUS, READ_TOTALS and READ_RECORD (R137, R164, R165, R176, R178): served in every
operating state, answering 149, 65 and 40 bytes; a slot without a record is EMPTY, a number above
15 BAD_ARG. They change nothing but the response. The layouts of R176 and R178, field by field at
their offsets, and the fields that R164 reports as 0, in every byte, while no configuration is in force:
START, and HOLD with return state START; a field that is absent is 0 in every byte (R174). READ_PEER
(R166, R178) in RUN and RESYNC: BAD_ARG above 15, NOTHING for a number the view has no entry for, which
by R78 is the part's own, and otherwise the entry's 24 bytes. -/
def Obligations.ReadingsChangeNothing : Prop :=
  (∀ s : State, nothingDue s = true → s.port.serving = true →
    exec .readStatus s = .next (answered [0x02#8] 0xA0#8 (statusBytes s) s)
      ∧ exec .readTotals s = .next (answered [0x03#8] 0xA0#8 (totalsBytes s) s)
      ∧ (totalsBytes s).length = 65
      ∧ (s.store.pages.length = 16 → (statusBytes s).length = 149)
      ∧ (∀ r, (recordBytes r).length = 40)
      ∧ ∀ page slot : Byte,
          (15 < page.toNat ∨ 15 < slot.toNat →
            exec (.readRecord page slot) s = .next (answered [0x04#8, page, slot] 0xA3#8 [] s))
          ∧ (page.toNat ≤ 15 → slot.toNat ≤ 15 →
              (∀ r, recordAt s.store page.toNat slot.toNat = some r →
                exec (.readRecord page slot) s
                  = .next (answered [0x04#8, page, slot] 0xA0#8 (recordBytes r) s))
              ∧ (recordAt s.store page.toNat slot.toNat = none →
                  exec (.readRecord page slot) s
                    = .next (answered [0x04#8, page, slot] 0xA7#8 [] s))))
  ∧ (∀ s : State,
    let b := statusBytes s
    let flag (x : Bool) : Nat := if x then 1 else 0
    let op (o : OpState) : Nat :=
      match o with
      | .start => 0
      | .run => 1
      | .resync => 2
      | .hold => 3
    let copy (c : CopyStatus) : Nat :=
      match c with
      | .pending => 0
      | .sent => 1
      | .dropped => 2
    let code (band : Band) : Nat :=
      match band with
      | .b0 => 0
      | .b1 => 1
      | .b2 => 2
      | .b3 => 3
      | .unbanded => 7
    s.store.pages.length = 16 →
    fieldAt b 0 1 = op s.supply.op ∧ fieldAt b 1 1 = op s.supply.ret
      ∧ fieldAt b 2 1 = flag s.supply.retentionValid + 2 * flag s.supply.release.isSome
      ∧ fieldAt b 3 1 = (match s.sp.state with | .idle => 0 | .running => 1 | .lost => 2)
      ∧ fieldAt b 4 1 = s.sp.missing % 256
      ∧ (∀ ch, let off := (match ch with | .l => 29 | .h => 33)
          fieldAt b off 1
              = (match (chanOf s.line ch).state with
                  | .off => 0 | .good => 1 | .degraded => 2 | .fault => 3)
            ∧ fieldAt b (off + 1) 1 = (chanOf s.line ch).errors % 256
            ∧ fieldAt b (off + 2) 1
              = (match (chanOf s.line ch).access with
                  | .idle => 0 | .defer => 1 | .backoff => 2 | .sending => 3)
            ∧ fieldAt b (off + 3) 1 = (chanOf s.line ch).attempts % 256)
      ∧ fieldAt b 37 1 = flag s.line.barred
      ∧ fieldAt b 38 1
          = (match s.line.outcome with | .noReport => 0 | .pending => 1 | .sent => 2 | .notSent => 3)
      ∧ fieldAt b 39 1 = s.line.sendList.length % 256
      ∧ (∀ n, n < 4 →
          (∀ e, s.line.sendList[n]? = some e →
            fieldAt b (40 + 6 * n) 1 = (match e.kind with | .report => 1 | .presence => 2)
              ∧ fieldAt b (41 + 6 * n) 2 = e.id.day % 65536
              ∧ fieldAt b (43 + 6 * n) 2 = e.id.iod % 65536
              ∧ fieldAt b (45 + 6 * n) 1 = copy e.statusL + 4 * copy e.statusH)
          ∧ (s.line.sendList[n]? = none → fieldAt b (40 + 6 * n) 6 = 0))
      ∧ fieldAt b 64 1 = flag s.su.closing.isSome ∧ fieldAt b 74 1 = s.su.streak % 256
      ∧ (∀ f, s.su.closing = some f →
          fieldAt b 65 2 = f.id.day % 65536 ∧ fieldAt b 67 2 = f.id.iod % 65536
            ∧ (-2 ^ 31 ≤ f.net → f.net < 2 ^ 31 → signedOf (bytesAt b 69 4) = f.net)
            ∧ fieldAt b 73 1
                = (s.su.peers.filterMap fun p => p.closing.map (·.net)).length % 256)
      ∧ (s.su.closing = none → fieldAt b 65 9 = 0)
      ∧ fieldAt b 75 5 = s.su.summary.m % 2 ^ 40 ∧ fieldAt b 80 5 = s.su.summary.x % 2 ^ 40
      ∧ fieldAt b 85 1 = s.su.summary.exporters % 256 ∧ fieldAt b 86 1 = flag s.su.summary.valid
      ∧ fieldAt b 99 1 = s.el.latch.toNat ∧ fieldAt b 100 1 = s.el.shed.length % 256
      ∧ (∀ n, n < 4 →
          (∀ k, s.el.shed[n]? = some k → fieldAt b (101 + n) 1 = k.val)
            ∧ (s.el.shed[n]? = none → fieldAt b (101 + n) 1 = 0))
      ∧ fieldAt b 105 1 = s.el.overCount % 256 ∧ fieldAt b 106 2 = s.el.underCount % 65536
      ∧ fieldAt b 108 2 = s.el.holdOff % 65536 ∧ fieldAt b 110 1 = flag s.el.settling
      ∧ fieldAt b 111 1 = flag s.el.level ∧ fieldAt b 112 1 = flag s.el.cutoffLatch
      ∧ fieldAt b 113 1 = flag (ctlPin s 0) + 2 * flag (ctlPin s 1) + 4 * flag (ctlPin s 2)
          + 8 * flag (ctlPin s 3)
      ∧ (∀ (n : Nat) (p : Page), s.store.pages[n]? = some p →
          fieldAt b (114 + n) 1
            = (match p.state with | .empty => 0 | .filling => 1 | .sealed => 2))
      ∧ fieldAt b 130 1 = s.store.writePage % 256 ∧ fieldAt b 131 1 = s.store.writeSlot % 256
      ∧ fieldAt b 132 1 = flag (storeBlocked s.store)
      ∧ fieldAt b 133 1 = s.store.held.length % 256
      ∧ (∀ n, n < 5 →
          (∀ r, s.store.held[n]? = some r →
            fieldAt b (134 + 2 * n) 1 = code r.band
              ∧ fieldAt b (135 + 2 * n) 1 = r.mergeCount % 256)
          ∧ (s.store.held[n]? = none → fieldAt b (134 + 2 * n) 2 = 0))
      ∧ fieldAt b 144 2 = s.alerts.latches.toNat ∧ fieldAt b 146 2 = s.alerts.mask.toNat
      ∧ fieldAt b 148 1 = (match s.alerts.rearm with | .armed => 0 | .waiting => 1)
      ∧ (s.supply.op = .start ∨ (s.supply.op = .hold ∧ s.supply.ret = .start) →
          bytesAt b 5 24 = List.replicate 24 0x00#8 ∧ bytesAt b 87 12 = List.replicate 12 0x00#8)
      ∧ (s.supply.op = .run ∨ s.supply.op = .resync
            ∨ (s.supply.op = .hold ∧ s.supply.ret ≠ .start) →
          fieldAt b 5 2 = s.it.id.day % 65536 ∧ fieldAt b 7 2 = s.it.id.iod % 65536
            ∧ fieldAt b 9 4 = s.it.elapsed % 2 ^ 32 ∧ fieldAt b 13 4 = s.it.startPos % 2 ^ 32
            ∧ (∀ n, s.it.length = some n → fieldAt b 17 4 = n % 2 ^ 32)
            ∧ (-32 ≤ s.it.trim → s.it.trim ≤ 32 → signedOf (bytesAt b 21 1) = s.it.trim)
            ∧ fieldAt b 22 1 = flag s.it.window.isSome
            ∧ (∀ id, s.it.window = some id →
                fieldAt b 23 2 = id.day % 65536 ∧ fieldAt b 25 2 = id.iod % 65536)
            ∧ (s.it.window = none → fieldAt b 23 4 = 0)
            ∧ (s.it.length = none → fieldAt b 17 4 = 0)
            ∧ fieldAt b 27 1 = s.it.presence % 256
            ∧ fieldAt b 28 1 = code s.rb.band
            ∧ (∀ n, s.el.effectiveCap = some n → fieldAt b 87 5 = n % 2 ^ 40)
            ∧ fieldAt b 92 1 = flag s.el.pendingCap.isSome
            ∧ (∀ n, s.el.pendingCap = some n → fieldAt b 93 5 = n % 2 ^ 40)
            ∧ (s.el.effectiveCap = none → fieldAt b 87 5 = 0)
            ∧ (s.el.pendingCap = none → fieldAt b 93 5 = 0)
            ∧ (∀ c, s.config = some c → fieldAt b 98 1 = c.wired.toNat)))
  ∧ (∀ s : State,
    let b := totalsBytes s
    (∀ n band, (n, band) ∈ [(0, Band.b0), (10, .b1), (20, .b2), (30, .b3), (40, .unbanded)] →
      fieldAt b n 5 = (totalsOf s.rb.totals band).imp % 2 ^ 40
        ∧ fieldAt b (n + 5) 5 = (totalsOf s.rb.totals band).exp % 2 ^ 40)
      ∧ fieldAt b 50 5 = s.ne.residueImport % 2 ^ 40 ∧ fieldAt b 55 5 = s.ne.residueExport % 2 ^ 40
      ∧ (∀ q, s.supply.retainedQ = some q → fieldAt b 60 5 = q % 2 ^ 40)
      ∧ (s.supply.retainedQ = none → fieldAt b 60 5 = 0))
  ∧ (∀ r : Record,
    let b := recordBytes r
    fieldAt b 0 2 = r.firstId.day % 65536 ∧ fieldAt b 2 2 = r.firstId.iod % 65536
      ∧ fieldAt b 4 2 = r.lastId.day % 65536 ∧ fieldAt b 6 2 = r.lastId.iod % 65536
      ∧ fieldAt b 8 1
          = (match r.band with | .b0 => 0 | .b1 => 1 | .b2 => 2 | .b3 => 3 | .unbanded => 7)
      ∧ fieldAt b 9 2 = r.flags.toNat ∧ fieldAt b 11 1 = r.mergeCount % 256
      ∧ fieldAt b 12 2 = r.heard.toNat ∧ fieldAt b 14 1 = r.expected % 256
      ∧ (-128 ≤ r.trim → r.trim ≤ 127 → signedOf (bytesAt b 15 1) = r.trim)
      ∧ fieldAt b 16 4 = r.impQuanta % 2 ^ 32 ∧ fieldAt b 20 4 = r.expQuanta % 2 ^ 32
      ∧ fieldAt b 24 4 = r.share % 2 ^ 32
      ∧ fieldAt b 28 5 = r.m % 2 ^ 40 ∧ fieldAt b 33 5 = r.x % 2 ^ 40 ∧ fieldAt b 38 2 = 0)
  ∧ (∀ p : PeerEntry,
    let b := peerBytes p
    let flag (x : Bool) : Nat := if x then 1 else 0
    fieldAt b 0 1 = (match p.state with | .absent => 0 | .present => 1 | .silent => 2)
      ∧ fieldAt b 1 1 = flag p.lastId.isSome + 2 * flag p.counted + 4 * flag p.closing.isSome
          + 8 * flag p.early.isSome
      ∧ (∀ id, p.lastId = some id →
          fieldAt b 2 2 = id.day % 65536 ∧ fieldAt b 4 2 = id.iod % 65536)
      ∧ fieldAt b 6 1 = (match p.lastChannel with | none => 0 | some .l => 1 | some .h => 2)
      ∧ fieldAt b 7 1 = p.missed % 256
      ∧ (∀ k, p.closing = some k → -2 ^ 31 ≤ k.net → k.net < 2 ^ 31 → k.offset.natAbs ≤ 4096 →
          signedOf (bytesAt b 8 4) = k.net ∧ signedOf (bytesAt b 12 2) = k.offset)
      ∧ (∀ k, p.early = some k → -2 ^ 31 ≤ k.net → k.net < 2 ^ 31 →
          signedOf (bytesAt b 14 4) = k.net ∧ fieldAt b 18 4 = k.elapsed % 2 ^ 32
            ∧ fieldAt b 22 2 = k.delay % 65536)
      ∧ (p.lastId = none → fieldAt b 2 4 = 0) ∧ (p.closing = none → fieldAt b 8 6 = 0)
      ∧ (p.early = none → fieldAt b 14 10 = 0))
  ∧ (∀ (s : State) (c : Setup) (station : Byte), nothingDue s = true → s.config = some c →
    PeerLaw s → isLive s = true → s.port.serving = true →
    (15 < station.toNat →
      exec (.readPeer station) s = .next (answered [0x0C#8, station] 0xA3#8 [] s))
    ∧ (station.toNat ≤ 15 → station.toNat = c.station →
        exec (.readPeer station) s = .next (answered [0x0C#8, station] 0xA6#8 [] s))
    ∧ (station.toNat ≤ 15 → station.toNat ≠ c.station →
        ∃ p ∈ s.su.peers, p.station = some station.toNat ∧ (peerBytes p).length = 24
          ∧ exec (.readPeer station) s
              = .next (answered [0x0C#8, station] 0xA0#8 (peerBytes p) s)))

/-- READ_ALERT (R171, with ALERTN as R170 gives it): the code of the highest-priority cause that
is latched and unmasked, SUPPLY always unmasked; NOTHING where there is none, which is exactly
when ALERTN is released; nothing else changes, so a second READ_ALERT answers the same. -/
def Obligations.ReadAlert : Prop :=
  ∀ s : State, nothingDue s = true → s.port.serving = true →
    let shows (n : Nat) : Bool :=
      s.alerts.latches.getLsbD (n - 1) && (n == 1 || !s.alerts.mask.getLsbD (n - 1))
    (∀ n, 1 ≤ n → n ≤ 9 → shows n = true → (∀ m, 1 ≤ m → m < n → shows m = false) →
      exec .readAlert s = .next (answered [0x08#8] 0xA0#8 [BitVec.ofNat 8 n] s))
    ∧ ((∀ n, 1 ≤ n → n ≤ 9 → shows n = false) →
        exec .readAlert s = .next (answered [0x08#8] 0xA6#8 [] s))
    ∧ (alertAsserted s.alerts = false ↔ ∀ n, 1 ≤ n → n ≤ 9 → shows n = false)
    ∧ ∀ t, exec .readAlert s = .next t → exec .readAlert t = .next t

/-- ACK_ALERT (R172) and SET_MASK (R169): a set latch is cleared, a clear one NOTHING, a code that
names no cause BAD_ARG; the mask becomes the nine bits given, SUPPLY unmasked, and a mask naming
any other position BAD_ARG; no latch changes with the mask, and no mask bit with a latch. -/
def Obligations.AckAlertAndSetMask : Prop :=
  ∀ s : State, nothingDue s = true → s.port.serving = true →
    (∀ code : Byte,
      (code.toNat = 0 ∨ 9 < code.toNat →
        exec (.ackAlert code) s = .next (answered [0x09#8, code] 0xA3#8 [] s))
      ∧ (1 ≤ code.toNat → code.toNat ≤ 9 → s.alerts.latches.getLsbD (code.toNat - 1) = false →
          exec (.ackAlert code) s = .next (answered [0x09#8, code] 0xA6#8 [] s))
      ∧ (1 ≤ code.toNat → code.toNat ≤ 9 → s.alerts.latches.getLsbD (code.toNat - 1) = true →
          exec (.ackAlert code) s = .next
            (answered [0x09#8, code] 0xA0#8 []
              { s with
                alerts :=
                  { s.alerts with
                    latches := s.alerts.latches &&& ~~~(1#9 <<< (code.toNat - 1)) } })))
    ∧ ∀ mask : BitVec 16,
        (512 ≤ mask.toNat →
          exec (.setMask mask) s
            = .next (answered (0x0A#8 :: beBytes 2 mask.toNat) 0xA3#8 [] s))
        ∧ (mask.toNat < 512 →
            exec (.setMask mask) s = .next
              (answered (0x0A#8 :: beBytes 2 mask.toNat) 0xA0#8 []
                { s with
                  alerts := { s.alerts with mask := mask.setWidth 9 &&& 0x1FE#9 } }))

/-- UNKNOWN_COMMAND and DISCARDED_TRANSACTION (R160, R161): a code that names no command answers
UNKNOWN_COMMAND and the rest is ignored until CSN rises; bytes that do not yet make a command act are
taken; and as CSN rises, before the command acts or after, the port is idle and what was left of a
response is lost, as with a LOAD_CONFIG cut short (log 20). A transaction whose CSN fell before a
reset's end is not served: no row of the host changes anything but the level of CSN until CSN rises.
MISO is not driven while CSN is high, with a reset held or not; in a transaction that is served it
carries fill bytes, 0x00, while command and arguments are clocked, then the result code and the data,
then fill bytes, each byte most significant bit first, and after an unknown command byte its result. R160:
MISO changes on falling edges of SCK alone, which idles low: after n of them it carries the transaction's
n-th bit, counted from 0, and so it does at the rising edge that follows; that the first bit stands from
CSN's fall is DEDUCED of SPI mode 0 (log 8). Nothing else changes. That DISCARDED_TRANSACTION also reports
the other events of CSN, and that CSN stands as the rows last reported it, are the model's choice (log 8);
the level of a bit of 1 is PRESUMED high (log 26). -/
def Obligations.TransactionsThatDoNotAct : Prop :=
  (∀ (s : State) (code : Byte) (bytes block : List Byte),
    (code.toNat = 0 ∨ 14 < code.toNat → s.port.serving = true →
      exec (.unknownCommand code) s = .next
        { s with
          port :=
            { txn := .ignoring, taken := [code], response := some [0xA8#8], serving := true
              csnLow := true } })
    ∧ (notYetActing bytes = true → s.port.serving = true →
        exec (.discardedTransaction (.begun bytes)) s = .next
          { s with
            port :=
              { txn := if bytes = [] then .takingCommand else .takingArguments
                taken := bytes, response := none, serving := true, csnLow := true } })
    ∧ (∀ csn, csn = .beforeActing bytes ∨ csn = .afterwards →
        exec (.discardedTransaction csn) s = .next
          { s with
            port :=
              { txn := .idle, taken := [], response := none
                serving := !s.supply.resetHeld, csnLow := false } })
    ∧ (block.length < 126 →
        exec (.loadConfig block) s = exec (.discardedTransaction (.beforeActing (0x01#8 :: block))) s))
  ∧ (∀ (s : State) (i : Instr), nothingDue s = true → s.port.serving = false → wellFormed i = true →
    (mosi i ≠ none ∨ ∃ bytes, i = .discardedTransaction (.begun bytes)) →
    (∀ bytes, i ≠ .discardedTransaction (.beforeActing bytes)) →
    exec i s = .next { s with port := { s.port with csnLow := true } })
  ∧ (∀ (s : State) (taken data : List Byte) (result : Byte) (n : Nat),
    let t := answered taken result data s
    misoByte t.port n
        = some (if n < taken.length then 0x00#8 else (result :: data).getD (n - taken.length) 0x00#8)
      ∧ (s.port.csnLow = false → misoByte s.port n = none)
      ∧ (∀ taken csn, csn = .beforeActing taken ∨ csn = .afterwards →
          ∃ u, exec (.discardedTransaction csn) s = .next u ∧ misoByte u.port n = none)
      ∧ (s.port.serving = true → s.port.txn = .idle → misoByte s.port n = none)
      ∧ (s.port.serving = true → s.port.csnLow = true →
          s.port.txn = .takingCommand ∨ s.port.txn = .takingArguments →
          misoByte s.port n = some 0x00#8)
      ∧ (∀ code : Byte, code.toNat = 0 ∨ 14 < code.toNat → s.port.serving = true →
          ∃ u, exec (.unknownCommand code) s = .next u
            ∧ misoByte u.port n = some (if n = 1 then 0xA8#8 else 0x00#8))
      ∧ ∀ i, i < 8 → misoPin s (8 * n + i) = (misoByte s.port n).map fun b => b.getLsbD (7 - i))
  ∧ (∀ (s : State) (sck : List Bool) (level : Bool) (n : Nat),
    let falls := sck.getLast? = some true ∧ level = false
    let pulses := (List.replicate n [true, false]).flatten
    (¬ falls → misoAfter s (sck ++ [level]) = misoAfter s sck)
      ∧ misoAfter s sck = misoPin s ((sck.zip sck.tail).filter fun p => p.1 && !p.2).length
      ∧ misoAfter s pulses = misoPin s n ∧ misoAfter s (pulses ++ [true]) = misoPin s n)

/-- R160, R161, R178: the bytes the host clocks for a command, with any bytes after its last
argument, are that command to the port; those of a transaction that ends before its command acts
are a discarded one; and every list of bytes spells one command of the port. R160: MOSI is sampled on the
rising edges of SCK, which idles low, each byte most significant bit first; a byte that CSN cuts off
counts for nothing (the level of a bit of 1: log 26). -/
def Obligations.TransactionBytesSpellTheCommand : Prop :=
  (∀ (i : Instr) (bytes extra : List Byte), wellFormed i = true → mosi i = some bytes →
    ((∀ taken, i ≠ .discardedTransaction taken) → transaction (bytes ++ extra) = i)
      ∧ transaction bytes = i)
  ∧ ∀ bytes : List Byte,
      wellFormed (transaction bytes) = true
        ∧ (∃ taken extra, mosi (transaction bytes) = some taken ∧ bytes = taken ++ extra)
        ∧ ∀ (part : List Bool) (data : List (Bool × Bool)), part.length < 8 →
            data.map (·.1)
              = (bytes.flatMap fun b => (List.range 8).map fun i => b.getLsbD (7 - i)) ++ part →
            transactionOf (data.flatMap fun d => [(true, d.1), (false, d.2)]) = transaction bytes

/-! ## The send list at once -/

/-- What follows at once from a change of a channel state, of a status, of the list or of the barring
(R59, R60, R62). R60: exactly the entries whose status is SENT or DROPPED on every channel of the
sending set leave, while that set is not empty, the others keeping their order; the report outcome
follows the last REPORT among them. R59: a channel out of the sending set returns to IDLE with
attempt count 0 from DEFER or BACKOFF, its entry keeping its status, and in SENDING goes on with its
attempt, which the model marks (log 15). R62: a channel of the sending set that is IDLE, or whose entry
has left (its attempt count then 0 whatever removed the entry: the model's reading, log 14), commits
to the first entry in list order that is PENDING for it, with attempt count 0, in DEFER, its quiet
gap timed from then if CS is inactive (R63). -/
def Obligations.WhatFollowsOnTheLine : Prop :=
  ∀ (live : Bool) (l : Line),
    let t := judgeLine live l
    let pending (ch : Channel) (e : Entry) : Bool :=
      (match ch with | .l => e.statusL | .h => e.statusH) == .pending
    let stays (e : Entry) : Bool :=
      !(inSendingSet l .l || inSendingSet l .h) || (inSendingSet l .l && pending .l e)
        || (inSendingSet l .h && pending .h e)
    let left := l.sendList.filter fun e => !stays e
    (∀ ch, inSendingSet l ch = true ↔
        (chanOf l ch).state = .good
          ∨ ((chanOf l ch).state = .degraded ∧ ∀ x, (chanOf l x).state ≠ .good))
      ∧ t.sendList = l.sendList.filter stays
      ∧ t.outcome
          = (match (left.filter fun e => e.kind == .report).getLast? with
              | none => l.outcome
              | some e => if e.statusL = .sent ∨ e.statusH = .sent then .sent else .notSent)
      ∧ t.barred = l.barred ∧ t.filter = l.filter ∧ t.nextSerial = l.nextSerial
      ∧ ∀ ch,
          let k := chanOf l ch
          let idle : Chan :=
            { k with
              access := .idle
              attempts := 0
              committed := none
              lapsed := false
              copy := []
              gapTimer := none
              backoffTimer := none
              echoTimer := none
              jabberTimer := none }
          let waiting := k.access = .defer ∨ k.access = .backoff
          let listed := ∃ e ∈ t.sendList, k.committed = some e.serial
          (inSendingSet l ch = false →
            (k.access = .idle → chanOf t ch = k)
              ∧ (waiting → chanOf t ch = idle)
              ∧ (k.access = .sending → chanOf t ch = { k with lapsed := true }))
          ∧ (inSendingSet l ch = true →
              (k.access = .sending → chanOf t ch = k)
              ∧ (waiting → listed → chanOf t ch = k)
              ∧ ∀ k0 : Chan, (k.access = .idle ∧ k0 = k) ∨ (waiting ∧ ¬ listed ∧ k0 = idle) →
                  ((live = false ∨ l.barred = true ∨ ∀ e ∈ t.sendList, pending ch e = false) →
                    chanOf t ch = k0)
                  ∧ (live = true → l.barred = false →
                      ∀ before e after, t.sendList = before ++ e :: after → pending ch e = true →
                        (∀ x ∈ before, pending ch x = false) →
                        chanOf t ch =
                          { k0 with
                            access := .defer
                            committed := some e.serial
                            attempts := 0
                            lapsed := false
                            copy := []
                            gapTimer := if k.cs then none else some 32768
                            backoffTimer := none
                            echoTimer := none
                            jabberTimer := none }))
end

