-- ==== Sys2Proof/Laws/Bytes.lean ====
section
/-! SUPPORT. The byte-order helpers (R174): their lengths, and that what is written is read back. -/

namespace Sys2Proof

@[simp] theorem beBytes_length (n v : Nat) : (beBytes n v).length = n := by
  induction n generalizing v with
  | zero => rfl
  | succ n ih => simp [beBytes, ih]

@[simp] theorem beInt_length (n : Nat) (v : Int) : (beInt n v).length = n := beBytes_length _ _

theorem beNat_from (bs : List Byte) (acc : Nat) :
    bs.foldl (fun v b => v * 256 + b.toNat) acc = acc * 256 ^ bs.length + beNat bs := by
  induction bs generalizing acc with
  | nil => simp [beNat]
  | cons b bs ih =>
    simp only [List.foldl_cons, List.length_cons, beNat]
    rw [ih, ih (0 * 256 + b.toNat)]
    simp only [beNat]
    ring

/-- A number is read as its first byte's place value and the rest. -/
theorem beNat_cons (b : Byte) (bs : List Byte) :
    beNat (b :: bs) = b.toNat * 256 ^ bs.length + beNat bs := by
  simp only [beNat, List.foldl_cons]
  rw [beNat_from]
  simp [beNat]

/-- What `beBytes` writes, `beNat` reads, less what does not fit in the bytes. -/
theorem beNat_beBytes_mod (n v : Nat) : beNat (beBytes n v) = v % 256 ^ n := by
  induction n generalizing v with
  | zero => simp [beBytes, beNat, Nat.mod_one]
  | succ n ih =>
    have h : v % 256 ^ (n + 1) = v % 256 ^ n + 256 ^ n * (v / 256 ^ n % 256) := by
      rw [pow_succ, Nat.mod_mul]
    rw [beBytes, beNat_cons, ih, beBytes_length, h, BitVec.toNat_ofNat]
    ring

/-- What `beBytes` writes, `beNat` reads (R174). -/
theorem beNat_beBytes {n v : Nat} (h : v < 256 ^ n) : beNat (beBytes n v) = v := by
  rw [beNat_beBytes_mod, Nat.mod_eq_of_lt h]

theorem beNat_lt (bs : List Byte) : beNat bs < 256 ^ bs.length := by
  induction bs with
  | nil => simp [beNat]
  | cons b bs ih =>
    rw [beNat_cons, List.length_cons, pow_succ]
    have := b.isLt
    have h2 : b.toNat ≤ 255 := by omega
    calc b.toNat * 256 ^ bs.length + beNat bs
        < b.toNat * 256 ^ bs.length + 256 ^ bs.length := by omega
      _ ≤ 255 * 256 ^ bs.length + 256 ^ bs.length :=
          Nat.add_le_add_right (Nat.mul_le_mul_right _ h2) _
      _ = 256 ^ bs.length * 256 := by ring

/-- A field of `len` bytes is below 256 to the power `len`. -/
theorem fieldAt_lt (bs : List Byte) (off len : Nat) : fieldAt bs off len < 256 ^ len := by
  refine lt_of_lt_of_le (beNat_lt _) (Nat.pow_le_pow_right (by omega) ?_)
  simp [bytesAt]

/-- A signed number of `n` bytes is read back (R174). -/
theorem signedOf_beInt {n : Nat} {v : Int} (hlo : -(256 ^ n : Nat) ≤ 2 * v)
    (hhi : 2 * v < (256 ^ n : Nat)) : signedOf (beInt n v) = v := by
  have hp : (0 : Int) < (256 ^ n : Nat) := by positivity
  have hm0 := Int.emod_nonneg v hp.ne'
  have hm1 := Int.emod_lt_of_pos v hp
  have hr : (beNat (beInt n v) : Int) = v % (256 ^ n : Nat) := by
    unfold beInt
    rw [beNat_beBytes (by omega)]
    omega
  unfold signedOf
  rw [beInt_length, hr]
  rcases lt_or_ge v 0 with hn | hn
  · have hv : v % (256 ^ n : Nat) = v + (256 ^ n : Nat) := by
      rw [← Int.add_emod_right, Int.emod_eq_of_lt (by omega) (by omega)]
    rw [hv]
    dsimp only
    split <;> omega
  · have hv : v % (256 ^ n : Nat) = v := Int.emod_eq_of_lt (by omega) (by omega)
    rw [hv]
    dsimp only
    split <;> omega

/-- A signed field of `n` bytes lies in two's complement's range. -/
theorem signedOf_range (bs : List Byte) :
    -(256 ^ bs.length : Nat) ≤ 2 * signedOf bs ∧ 2 * signedOf bs < (256 ^ bs.length : Nat) := by
  have h := beNat_lt bs
  unfold signedOf
  dsimp only
  split <;> omega

/-- Bytes taken from the middle of a concatenation whose parts' lengths are known. -/
theorem bytesAt_append_right {a b : List Byte} {off len : Nat} (h : a.length ≤ off) :
    bytesAt (a ++ b) off len = bytesAt b (off - a.length) len := by
  simp [bytesAt, List.drop_append, List.drop_eq_nil_of_le h]

theorem bytesAt_append_left {a b : List Byte} {off len : Nat} (h : off + len ≤ a.length) :
    bytesAt (a ++ b) off len = bytesAt a off len := by
  unfold bytesAt
  rw [List.drop_append_of_le_length (by omega), List.take_append_of_le_length]
  simp
  omega

theorem bytesAt_zero_all (a : List Byte) : bytesAt a 0 a.length = a := by
  simp [bytesAt]

end Sys2Proof
end

