-- ==== Sys2Proof/Laws/State.lean ====
section
/-! SUPPORT. Beside the state: for each operation that takes the part from state to state, what it does
not touch, one lemma per field; a field without a lemma is one the operation writes. -/

namespace Sys2Proof.Machine

/-! ### `respond` -/

@[simp] theorem respond_pending (i : Instr) (r : ResultCode) (data : List Byte) (s : State) :
    (respond i r data s).pending = s.pending := rfl

@[simp] theorem respond_draws (i : Instr) (r : ResultCode) (data : List Byte) (s : State) :
    (respond i r data s).draws = s.draws := rfl

@[simp] theorem respond_config (i : Instr) (r : ResultCode) (data : List Byte) (s : State) :
    (respond i r data s).config = s.config := rfl

@[simp] theorem respond_supply (i : Instr) (r : ResultCode) (data : List Byte) (s : State) :
    (respond i r data s).supply = s.supply := rfl

@[simp] theorem respond_sp (i : Instr) (r : ResultCode) (data : List Byte) (s : State) :
    (respond i r data s).sp = s.sp := rfl

@[simp] theorem respond_ne (i : Instr) (r : ResultCode) (data : List Byte) (s : State) :
    (respond i r data s).ne = s.ne := rfl

@[simp] theorem respond_it (i : Instr) (r : ResultCode) (data : List Byte) (s : State) :
    (respond i r data s).it = s.it := rfl

@[simp] theorem respond_rb (i : Instr) (r : ResultCode) (data : List Byte) (s : State) :
    (respond i r data s).rb = s.rb := rfl

@[simp] theorem respond_line (i : Instr) (r : ResultCode) (data : List Byte) (s : State) :
    (respond i r data s).line = s.line := rfl

@[simp] theorem respond_su (i : Instr) (r : ResultCode) (data : List Byte) (s : State) :
    (respond i r data s).su = s.su := rfl

@[simp] theorem respond_el (i : Instr) (r : ResultCode) (data : List Byte) (s : State) :
    (respond i r data s).el = s.el := rfl

@[simp] theorem respond_store (i : Instr) (r : ResultCode) (data : List Byte) (s : State) :
    (respond i r data s).store = s.store := rfl

@[simp] theorem respond_alerts (i : Instr) (r : ResultCode) (data : List Byte) (s : State) :
    (respond i r data s).alerts = s.alerts := rfl

@[simp] theorem respond_isLive (i : Instr) (r : ResultCode) (data : List Byte) (s : State) :
    isLive (respond i r data s) = isLive s := by simp [isLive]

/-! ### `setRecv` -/

@[simp] theorem setRecv_pending (ch : Channel) (r : RecvState) (s : State) :
    (setRecv ch r s).pending = s.pending := rfl

@[simp] theorem setRecv_draws (ch : Channel) (r : RecvState) (s : State) :
    (setRecv ch r s).draws = s.draws := rfl

@[simp] theorem setRecv_config (ch : Channel) (r : RecvState) (s : State) :
    (setRecv ch r s).config = s.config := rfl

@[simp] theorem setRecv_supply (ch : Channel) (r : RecvState) (s : State) :
    (setRecv ch r s).supply = s.supply := rfl

@[simp] theorem setRecv_sp (ch : Channel) (r : RecvState) (s : State) :
    (setRecv ch r s).sp = s.sp := rfl

@[simp] theorem setRecv_ne (ch : Channel) (r : RecvState) (s : State) :
    (setRecv ch r s).ne = s.ne := rfl

@[simp] theorem setRecv_it (ch : Channel) (r : RecvState) (s : State) :
    (setRecv ch r s).it = s.it := rfl

@[simp] theorem setRecv_rb (ch : Channel) (r : RecvState) (s : State) :
    (setRecv ch r s).rb = s.rb := rfl

@[simp] theorem setRecv_su (ch : Channel) (r : RecvState) (s : State) :
    (setRecv ch r s).su = s.su := rfl

@[simp] theorem setRecv_el (ch : Channel) (r : RecvState) (s : State) :
    (setRecv ch r s).el = s.el := rfl

@[simp] theorem setRecv_store (ch : Channel) (r : RecvState) (s : State) :
    (setRecv ch r s).store = s.store := rfl

@[simp] theorem setRecv_alerts (ch : Channel) (r : RecvState) (s : State) :
    (setRecv ch r s).alerts = s.alerts := rfl

@[simp] theorem setRecv_port (ch : Channel) (r : RecvState) (s : State) :
    (setRecv ch r s).port = s.port := rfl

@[simp] theorem setRecv_isLive (ch : Channel) (r : RecvState) (s : State) :
    isLive (setRecv ch r s) = isLive s := by simp [isLive]

/-! ### `setOp` -/

@[simp] theorem setOp_pending (op : OpState) (s : State) :
    (setOp op s).pending = s.pending := rfl

@[simp] theorem setOp_draws (op : OpState) (s : State) :
    (setOp op s).draws = s.draws := rfl

@[simp] theorem setOp_config (op : OpState) (s : State) :
    (setOp op s).config = s.config := rfl

@[simp] theorem setOp_sp (op : OpState) (s : State) :
    (setOp op s).sp = s.sp := rfl

@[simp] theorem setOp_ne (op : OpState) (s : State) :
    (setOp op s).ne = s.ne := rfl

@[simp] theorem setOp_it (op : OpState) (s : State) :
    (setOp op s).it = s.it := rfl

@[simp] theorem setOp_rb (op : OpState) (s : State) :
    (setOp op s).rb = s.rb := rfl

@[simp] theorem setOp_line (op : OpState) (s : State) :
    (setOp op s).line = s.line := rfl

@[simp] theorem setOp_su (op : OpState) (s : State) :
    (setOp op s).su = s.su := rfl

@[simp] theorem setOp_el (op : OpState) (s : State) :
    (setOp op s).el = s.el := rfl

@[simp] theorem setOp_store (op : OpState) (s : State) :
    (setOp op s).store = s.store := rfl

@[simp] theorem setOp_alerts (op : OpState) (s : State) :
    (setOp op s).alerts = s.alerts := rfl

@[simp] theorem setOp_port (op : OpState) (s : State) :
    (setOp op s).port = s.port := rfl

/-! ### `clearInterval` -/

@[simp] theorem clearInterval_pending (s : State) :
    (clearInterval s).pending = s.pending := rfl

@[simp] theorem clearInterval_draws (s : State) :
    (clearInterval s).draws = s.draws := rfl

@[simp] theorem clearInterval_config (s : State) :
    (clearInterval s).config = s.config := rfl

@[simp] theorem clearInterval_supply (s : State) :
    (clearInterval s).supply = s.supply := rfl

@[simp] theorem clearInterval_sp (s : State) :
    (clearInterval s).sp = s.sp := rfl

@[simp] theorem clearInterval_it (s : State) :
    (clearInterval s).it = s.it := rfl

@[simp] theorem clearInterval_line (s : State) :
    (clearInterval s).line = s.line := rfl

@[simp] theorem clearInterval_su (s : State) :
    (clearInterval s).su = s.su := rfl

@[simp] theorem clearInterval_el (s : State) :
    (clearInterval s).el = s.el := rfl

@[simp] theorem clearInterval_store (s : State) :
    (clearInterval s).store = s.store := rfl

@[simp] theorem clearInterval_alerts (s : State) :
    (clearInterval s).alerts = s.alerts := rfl

@[simp] theorem clearInterval_port (s : State) :
    (clearInterval s).port = s.port := rfl

@[simp] theorem clearInterval_isLive (s : State) :
    isLive (clearInterval s) = isLive s := by simp [isLive]

/-! ### `beginInterval` -/

@[simp] theorem beginInterval_pending (c : Setup) (id : IntervalId) (e : Nat) (b : Band) (s : State) :
    (beginInterval c id e b s).pending = s.pending := rfl

@[simp] theorem beginInterval_draws (c : Setup) (id : IntervalId) (e : Nat) (b : Band) (s : State) :
    (beginInterval c id e b s).draws = s.draws := rfl

@[simp] theorem beginInterval_config (c : Setup) (id : IntervalId) (e : Nat) (b : Band) (s : State) :
    (beginInterval c id e b s).config = s.config := rfl

@[simp] theorem beginInterval_supply (c : Setup) (id : IntervalId) (e : Nat) (b : Band) (s : State) :
    (beginInterval c id e b s).supply = s.supply := rfl

@[simp] theorem beginInterval_sp (c : Setup) (id : IntervalId) (e : Nat) (b : Band) (s : State) :
    (beginInterval c id e b s).sp = s.sp := rfl

@[simp] theorem beginInterval_ne (c : Setup) (id : IntervalId) (e : Nat) (b : Band) (s : State) :
    (beginInterval c id e b s).ne = s.ne := rfl

@[simp] theorem beginInterval_line (c : Setup) (id : IntervalId) (e : Nat) (b : Band) (s : State) :
    (beginInterval c id e b s).line = s.line := rfl

@[simp] theorem beginInterval_su (c : Setup) (id : IntervalId) (e : Nat) (b : Band) (s : State) :
    (beginInterval c id e b s).su = s.su := rfl

@[simp] theorem beginInterval_store (c : Setup) (id : IntervalId) (e : Nat) (b : Band) (s : State) :
    (beginInterval c id e b s).store = s.store := rfl

@[simp] theorem beginInterval_alerts (c : Setup) (id : IntervalId) (e : Nat) (b : Band) (s : State) :
    (beginInterval c id e b s).alerts = s.alerts := rfl

@[simp] theorem beginInterval_port (c : Setup) (id : IntervalId) (e : Nat) (b : Band) (s : State) :
    (beginInterval c id e b s).port = s.port := rfl

@[simp] theorem beginInterval_isLive (c : Setup) (id : IntervalId) (e : Nat) (b : Band) (s : State) :
    isLive (beginInterval c id e b s) = isLive s := by simp [isLive]

/-! ### `putRecord` -/

@[simp] theorem putRecord_pending (r : Record) (s : State) :
    (putRecord r s).pending = s.pending := by unfold putRecord; split <;> rfl

@[simp] theorem putRecord_draws (r : Record) (s : State) :
    (putRecord r s).draws = s.draws := by unfold putRecord; split <;> rfl

@[simp] theorem putRecord_config (r : Record) (s : State) :
    (putRecord r s).config = s.config := by unfold putRecord; split <;> rfl

@[simp] theorem putRecord_supply (r : Record) (s : State) :
    (putRecord r s).supply = s.supply := by unfold putRecord; split <;> rfl

@[simp] theorem putRecord_sp (r : Record) (s : State) :
    (putRecord r s).sp = s.sp := by unfold putRecord; split <;> rfl

@[simp] theorem putRecord_ne (r : Record) (s : State) :
    (putRecord r s).ne = s.ne := by unfold putRecord; split <;> rfl

@[simp] theorem putRecord_it (r : Record) (s : State) :
    (putRecord r s).it = s.it := by unfold putRecord; split <;> rfl

@[simp] theorem putRecord_rb (r : Record) (s : State) :
    (putRecord r s).rb = s.rb := by unfold putRecord; split <;> rfl

@[simp] theorem putRecord_line (r : Record) (s : State) :
    (putRecord r s).line = s.line := by unfold putRecord; split <;> rfl

@[simp] theorem putRecord_su (r : Record) (s : State) :
    (putRecord r s).su = s.su := by unfold putRecord; split <;> rfl

@[simp] theorem putRecord_el (r : Record) (s : State) :
    (putRecord r s).el = s.el := by unfold putRecord; split <;> rfl

@[simp] theorem putRecord_port (r : Record) (s : State) :
    (putRecord r s).port = s.port := by unfold putRecord; split <;> rfl

@[simp] theorem putRecord_isLive (r : Record) (s : State) :
    isLive (putRecord r s) = isLive s := by simp [isLive]

/-! ### `flushRecords` -/

@[simp] theorem flushRecords_pending (rs : List Record) (s : State) :
    (flushRecords rs s).pending = s.pending := by
  induction rs generalizing s with
  | nil => rfl
  | cons r rest ih => exact ih _

@[simp] theorem flushRecords_draws (rs : List Record) (s : State) :
    (flushRecords rs s).draws = s.draws := by
  induction rs generalizing s with
  | nil => rfl
  | cons r rest ih => exact ih _

@[simp] theorem flushRecords_config (rs : List Record) (s : State) :
    (flushRecords rs s).config = s.config := by
  induction rs generalizing s with
  | nil => rfl
  | cons r rest ih => exact ih _

@[simp] theorem flushRecords_supply (rs : List Record) (s : State) :
    (flushRecords rs s).supply = s.supply := by
  induction rs generalizing s with
  | nil => rfl
  | cons r rest ih => exact ih _

@[simp] theorem flushRecords_sp (rs : List Record) (s : State) :
    (flushRecords rs s).sp = s.sp := by
  induction rs generalizing s with
  | nil => rfl
  | cons r rest ih => exact ih _

@[simp] theorem flushRecords_ne (rs : List Record) (s : State) :
    (flushRecords rs s).ne = s.ne := by
  induction rs generalizing s with
  | nil => rfl
  | cons r rest ih => exact ih _

@[simp] theorem flushRecords_it (rs : List Record) (s : State) :
    (flushRecords rs s).it = s.it := by
  induction rs generalizing s with
  | nil => rfl
  | cons r rest ih => exact ih _

@[simp] theorem flushRecords_rb (rs : List Record) (s : State) :
    (flushRecords rs s).rb = s.rb := by
  induction rs generalizing s with
  | nil => rfl
  | cons r rest ih => exact ih _

@[simp] theorem flushRecords_line (rs : List Record) (s : State) :
    (flushRecords rs s).line = s.line := by
  induction rs generalizing s with
  | nil => rfl
  | cons r rest ih => exact ih _

@[simp] theorem flushRecords_su (rs : List Record) (s : State) :
    (flushRecords rs s).su = s.su := by
  induction rs generalizing s with
  | nil => rfl
  | cons r rest ih => exact ih _

@[simp] theorem flushRecords_el (rs : List Record) (s : State) :
    (flushRecords rs s).el = s.el := by
  induction rs generalizing s with
  | nil => rfl
  | cons r rest ih => exact ih _

@[simp] theorem flushRecords_port (rs : List Record) (s : State) :
    (flushRecords rs s).port = s.port := by
  induction rs generalizing s with
  | nil => rfl
  | cons r rest ih => exact ih _

@[simp] theorem flushRecords_isLive (rs : List Record) (s : State) :
    isLive (flushRecords rs s) = isLive s := by simp [isLive]

/-! ### `closeBlock` -/

@[simp] theorem closeBlock_pending (c : Setup) (j : Bool) (s : State) :
    (closeBlock c j s).pending = s.pending := rfl

@[simp] theorem closeBlock_draws (c : Setup) (j : Bool) (s : State) :
    (closeBlock c j s).draws = s.draws := rfl

@[simp] theorem closeBlock_config (c : Setup) (j : Bool) (s : State) :
    (closeBlock c j s).config = s.config := rfl

@[simp] theorem closeBlock_supply (c : Setup) (j : Bool) (s : State) :
    (closeBlock c j s).supply = s.supply := rfl

@[simp] theorem closeBlock_sp (c : Setup) (j : Bool) (s : State) :
    (closeBlock c j s).sp = s.sp := rfl

@[simp] theorem closeBlock_it (c : Setup) (j : Bool) (s : State) :
    (closeBlock c j s).it = s.it := rfl

@[simp] theorem closeBlock_line (c : Setup) (j : Bool) (s : State) :
    (closeBlock c j s).line = s.line := rfl

@[simp] theorem closeBlock_su (c : Setup) (j : Bool) (s : State) :
    (closeBlock c j s).su = s.su := rfl

@[simp] theorem closeBlock_store (c : Setup) (j : Bool) (s : State) :
    (closeBlock c j s).store = s.store := rfl

@[simp] theorem closeBlock_port (c : Setup) (j : Bool) (s : State) :
    (closeBlock c j s).port = s.port := rfl

@[simp] theorem closeBlock_isLive (c : Setup) (j : Bool) (s : State) :
    isLive (closeBlock c j s) = isLive s := by simp [isLive]

/-! ### `pacePresence` -/

@[simp] theorem pacePresence_pending (c : Setup) (s : State) :
    (pacePresence c s).pending = s.pending := by unfold pacePresence; split <;> rfl

@[simp] theorem pacePresence_draws (c : Setup) (s : State) :
    (pacePresence c s).draws = s.draws := by unfold pacePresence; split <;> rfl

@[simp] theorem pacePresence_config (c : Setup) (s : State) :
    (pacePresence c s).config = s.config := by unfold pacePresence; split <;> rfl

@[simp] theorem pacePresence_supply (c : Setup) (s : State) :
    (pacePresence c s).supply = s.supply := by unfold pacePresence; split <;> rfl

@[simp] theorem pacePresence_sp (c : Setup) (s : State) :
    (pacePresence c s).sp = s.sp := by unfold pacePresence; split <;> rfl

@[simp] theorem pacePresence_ne (c : Setup) (s : State) :
    (pacePresence c s).ne = s.ne := by unfold pacePresence; split <;> rfl

@[simp] theorem pacePresence_rb (c : Setup) (s : State) :
    (pacePresence c s).rb = s.rb := by unfold pacePresence; split <;> rfl

@[simp] theorem pacePresence_su (c : Setup) (s : State) :
    (pacePresence c s).su = s.su := by unfold pacePresence; split <;> rfl

@[simp] theorem pacePresence_el (c : Setup) (s : State) :
    (pacePresence c s).el = s.el := by unfold pacePresence; split <;> rfl

@[simp] theorem pacePresence_store (c : Setup) (s : State) :
    (pacePresence c s).store = s.store := by unfold pacePresence; split <;> rfl

@[simp] theorem pacePresence_alerts (c : Setup) (s : State) :
    (pacePresence c s).alerts = s.alerts := by unfold pacePresence; split <;> rfl

@[simp] theorem pacePresence_port (c : Setup) (s : State) :
    (pacePresence c s).port = s.port := by unfold pacePresence; split <;> rfl

@[simp] theorem pacePresence_isLive (c : Setup) (s : State) :
    isLive (pacePresence c s) = isLive s := by simp [isLive]

/-! ### `countBoundary` -/

@[simp] theorem countBoundary_pending (c : Setup) (s : State) :
    (countBoundary c s).pending = s.pending := by simp [countBoundary]

@[simp] theorem countBoundary_draws (c : Setup) (s : State) :
    (countBoundary c s).draws = s.draws := by simp [countBoundary]

@[simp] theorem countBoundary_config (c : Setup) (s : State) :
    (countBoundary c s).config = s.config := by simp [countBoundary]

@[simp] theorem countBoundary_supply (c : Setup) (s : State) :
    (countBoundary c s).supply = s.supply := by simp [countBoundary]

@[simp] theorem countBoundary_sp (c : Setup) (s : State) :
    (countBoundary c s).sp = s.sp := by simp [countBoundary]

@[simp] theorem countBoundary_store (c : Setup) (s : State) :
    (countBoundary c s).store = s.store := by simp [countBoundary]

@[simp] theorem countBoundary_alerts (c : Setup) (s : State) :
    (countBoundary c s).alerts = s.alerts := by simp [countBoundary]

@[simp] theorem countBoundary_port (c : Setup) (s : State) :
    (countBoundary c s).port = s.port := by simp [countBoundary]

@[simp] theorem countBoundary_isLive (c : Setup) (s : State) :
    isLive (countBoundary c s) = isLive s := by simp [isLive]

/-! ### `unalignedClose` -/

@[simp] theorem unalignedClose_pending (c : Setup) (s : State) :
    (unalignedClose c s).pending = s.pending := by simp [unalignedClose]

@[simp] theorem unalignedClose_draws (c : Setup) (s : State) :
    (unalignedClose c s).draws = s.draws := by simp [unalignedClose]

@[simp] theorem unalignedClose_config (c : Setup) (s : State) :
    (unalignedClose c s).config = s.config := by simp [unalignedClose]

@[simp] theorem unalignedClose_supply (c : Setup) (s : State) :
    (unalignedClose c s).supply = s.supply := by simp [unalignedClose]

@[simp] theorem unalignedClose_sp (c : Setup) (s : State) :
    (unalignedClose c s).sp = s.sp := by simp [unalignedClose]

@[simp] theorem unalignedClose_line (c : Setup) (s : State) :
    (unalignedClose c s).line = s.line := by simp [unalignedClose]

@[simp] theorem unalignedClose_su (c : Setup) (s : State) :
    (unalignedClose c s).su = s.su := by simp [unalignedClose]

@[simp] theorem unalignedClose_port (c : Setup) (s : State) :
    (unalignedClose c s).port = s.port := by simp [unalignedClose]

@[simp] theorem unalignedClose_isLive (c : Setup) (s : State) :
    isLive (unalignedClose c s) = isLive s := by simp [isLive]

/-! ### `settleWindow` -/

@[simp] theorem settleWindow_pending (c : Setup) (f : Figures) (s : State) :
    (settleWindow c f s).pending = s.pending := by simp [settleWindow]

@[simp] theorem settleWindow_draws (c : Setup) (f : Figures) (s : State) :
    (settleWindow c f s).draws = s.draws := by simp [settleWindow]

@[simp] theorem settleWindow_config (c : Setup) (f : Figures) (s : State) :
    (settleWindow c f s).config = s.config := by simp [settleWindow]

@[simp] theorem settleWindow_supply (c : Setup) (f : Figures) (s : State) :
    (settleWindow c f s).supply = s.supply := by simp [settleWindow]

@[simp] theorem settleWindow_sp (c : Setup) (f : Figures) (s : State) :
    (settleWindow c f s).sp = s.sp := by simp [settleWindow]

@[simp] theorem settleWindow_ne (c : Setup) (f : Figures) (s : State) :
    (settleWindow c f s).ne = s.ne := by simp [settleWindow]

@[simp] theorem settleWindow_rb (c : Setup) (f : Figures) (s : State) :
    (settleWindow c f s).rb = s.rb := by simp [settleWindow]

@[simp] theorem settleWindow_port (c : Setup) (f : Figures) (s : State) :
    (settleWindow c f s).port = s.port := by simp [settleWindow]

@[simp] theorem settleWindow_isLive (c : Setup) (f : Figures) (s : State) :
    isLive (settleWindow c f s) = isLive s := by simp [isLive]

/-! ### `closeWindow` -/

@[simp] theorem closeWindow_pending (c : Setup) (s : State) :
    (closeWindow c s).pending = s.pending := by unfold closeWindow; split <;> simp

@[simp] theorem closeWindow_draws (c : Setup) (s : State) :
    (closeWindow c s).draws = s.draws := by unfold closeWindow; split <;> simp

@[simp] theorem closeWindow_config (c : Setup) (s : State) :
    (closeWindow c s).config = s.config := by unfold closeWindow; split <;> simp

@[simp] theorem closeWindow_supply (c : Setup) (s : State) :
    (closeWindow c s).supply = s.supply := by unfold closeWindow; split <;> simp

@[simp] theorem closeWindow_sp (c : Setup) (s : State) :
    (closeWindow c s).sp = s.sp := by unfold closeWindow; split <;> simp

@[simp] theorem closeWindow_ne (c : Setup) (s : State) :
    (closeWindow c s).ne = s.ne := by unfold closeWindow; split <;> simp

@[simp] theorem closeWindow_rb (c : Setup) (s : State) :
    (closeWindow c s).rb = s.rb := by unfold closeWindow; split <;> simp

@[simp] theorem closeWindow_port (c : Setup) (s : State) :
    (closeWindow c s).port = s.port := by unfold closeWindow; split <;> simp

@[simp] theorem closeWindow_isLive (c : Setup) (s : State) :
    isLive (closeWindow c s) = isLive s := by simp [isLive]

/-! ### `applyTrim` -/

@[simp] theorem applyTrim_pending (c : Setup) (n : Int) (s : State) :
    (applyTrim c n s).pending = s.pending := rfl

@[simp] theorem applyTrim_draws (c : Setup) (n : Int) (s : State) :
    (applyTrim c n s).draws = s.draws := rfl

@[simp] theorem applyTrim_config (c : Setup) (n : Int) (s : State) :
    (applyTrim c n s).config = s.config := rfl

@[simp] theorem applyTrim_supply (c : Setup) (n : Int) (s : State) :
    (applyTrim c n s).supply = s.supply := rfl

@[simp] theorem applyTrim_sp (c : Setup) (n : Int) (s : State) :
    (applyTrim c n s).sp = s.sp := rfl

@[simp] theorem applyTrim_ne (c : Setup) (n : Int) (s : State) :
    (applyTrim c n s).ne = s.ne := rfl

@[simp] theorem applyTrim_rb (c : Setup) (n : Int) (s : State) :
    (applyTrim c n s).rb = s.rb := rfl

@[simp] theorem applyTrim_line (c : Setup) (n : Int) (s : State) :
    (applyTrim c n s).line = s.line := rfl

@[simp] theorem applyTrim_su (c : Setup) (n : Int) (s : State) :
    (applyTrim c n s).su = s.su := rfl

@[simp] theorem applyTrim_el (c : Setup) (n : Int) (s : State) :
    (applyTrim c n s).el = s.el := rfl

@[simp] theorem applyTrim_store (c : Setup) (n : Int) (s : State) :
    (applyTrim c n s).store = s.store := rfl

@[simp] theorem applyTrim_alerts (c : Setup) (n : Int) (s : State) :
    (applyTrim c n s).alerts = s.alerts := rfl

@[simp] theorem applyTrim_port (c : Setup) (n : Int) (s : State) :
    (applyTrim c n s).port = s.port := rfl

@[simp] theorem applyTrim_isLive (c : Setup) (n : Int) (s : State) :
    isLive (applyTrim c n s) = isLive s := by simp [isLive]

/-! ### `windowCloses` -/

@[simp] theorem windowCloses_pending (c : Setup) (s : State) :
    (windowCloses c s).pending = s.pending := by simp [windowCloses]

@[simp] theorem windowCloses_draws (c : Setup) (s : State) :
    (windowCloses c s).draws = s.draws := by simp [windowCloses]

@[simp] theorem windowCloses_config (c : Setup) (s : State) :
    (windowCloses c s).config = s.config := by simp [windowCloses]

@[simp] theorem windowCloses_supply (c : Setup) (s : State) :
    (windowCloses c s).supply = s.supply := by simp [windowCloses]

@[simp] theorem windowCloses_sp (c : Setup) (s : State) :
    (windowCloses c s).sp = s.sp := by simp [windowCloses]

@[simp] theorem windowCloses_ne (c : Setup) (s : State) :
    (windowCloses c s).ne = s.ne := by simp [windowCloses]

@[simp] theorem windowCloses_rb (c : Setup) (s : State) :
    (windowCloses c s).rb = s.rb := by simp [windowCloses]

@[simp] theorem windowCloses_port (c : Setup) (s : State) :
    (windowCloses c s).port = s.port := by simp [windowCloses]

@[simp] theorem windowCloses_isLive (c : Setup) (s : State) :
    isLive (windowCloses c s) = isLive s := by simp [isLive]

/-! ### `closeOpenBlock` -/

@[simp] theorem closeOpenBlock_pending (c : Setup) (j : Bool) (s : State) :
    (closeOpenBlock c j s).pending = s.pending := by unfold closeOpenBlock; split <;> simp

@[simp] theorem closeOpenBlock_draws (c : Setup) (j : Bool) (s : State) :
    (closeOpenBlock c j s).draws = s.draws := by unfold closeOpenBlock; split <;> simp

@[simp] theorem closeOpenBlock_config (c : Setup) (j : Bool) (s : State) :
    (closeOpenBlock c j s).config = s.config := by unfold closeOpenBlock; split <;> simp

@[simp] theorem closeOpenBlock_supply (c : Setup) (j : Bool) (s : State) :
    (closeOpenBlock c j s).supply = s.supply := by unfold closeOpenBlock; split <;> simp

@[simp] theorem closeOpenBlock_sp (c : Setup) (j : Bool) (s : State) :
    (closeOpenBlock c j s).sp = s.sp := by unfold closeOpenBlock; split <;> simp

@[simp] theorem closeOpenBlock_it (c : Setup) (j : Bool) (s : State) :
    (closeOpenBlock c j s).it = s.it := by unfold closeOpenBlock; split <;> simp

@[simp] theorem closeOpenBlock_line (c : Setup) (j : Bool) (s : State) :
    (closeOpenBlock c j s).line = s.line := by unfold closeOpenBlock; split <;> simp

@[simp] theorem closeOpenBlock_su (c : Setup) (j : Bool) (s : State) :
    (closeOpenBlock c j s).su = s.su := by unfold closeOpenBlock; split <;> simp

@[simp] theorem closeOpenBlock_store (c : Setup) (j : Bool) (s : State) :
    (closeOpenBlock c j s).store = s.store := by unfold closeOpenBlock; split <;> simp

@[simp] theorem closeOpenBlock_port (c : Setup) (j : Bool) (s : State) :
    (closeOpenBlock c j s).port = s.port := by unfold closeOpenBlock; split <;> simp

@[simp] theorem closeOpenBlock_isLive (c : Setup) (j : Bool) (s : State) :
    isLive (closeOpenBlock c j s) = isLive s := by simp [isLive]

/-! ### `settleOpenWindow` -/

@[simp] theorem settleOpenWindow_pending (c : Setup) (s : State) :
    (settleOpenWindow c s).pending = s.pending := by unfold settleOpenWindow; split <;> simp

@[simp] theorem settleOpenWindow_draws (c : Setup) (s : State) :
    (settleOpenWindow c s).draws = s.draws := by unfold settleOpenWindow; split <;> simp

@[simp] theorem settleOpenWindow_config (c : Setup) (s : State) :
    (settleOpenWindow c s).config = s.config := by unfold settleOpenWindow; split <;> simp

@[simp] theorem settleOpenWindow_supply (c : Setup) (s : State) :
    (settleOpenWindow c s).supply = s.supply := by unfold settleOpenWindow; split <;> simp

@[simp] theorem settleOpenWindow_sp (c : Setup) (s : State) :
    (settleOpenWindow c s).sp = s.sp := by unfold settleOpenWindow; split <;> simp

@[simp] theorem settleOpenWindow_ne (c : Setup) (s : State) :
    (settleOpenWindow c s).ne = s.ne := by unfold settleOpenWindow; split <;> simp

@[simp] theorem settleOpenWindow_rb (c : Setup) (s : State) :
    (settleOpenWindow c s).rb = s.rb := by unfold settleOpenWindow; split <;> simp

@[simp] theorem settleOpenWindow_port (c : Setup) (s : State) :
    (settleOpenWindow c s).port = s.port := by unfold settleOpenWindow; split <;> simp

@[simp] theorem settleOpenWindow_isLive (c : Setup) (s : State) :
    isLive (settleOpenWindow c s) = isLive s := by simp [isLive]

/-! ### `soloEffects` -/

@[simp] theorem soloEffects_pending (c : Setup) (op : OpState) (n : Int) (s : State) :
    (soloEffects c op n s).pending = s.pending := by unfold soloEffects; split <;> rfl

@[simp] theorem soloEffects_draws (c : Setup) (op : OpState) (n : Int) (s : State) :
    (soloEffects c op n s).draws = s.draws := by unfold soloEffects; split <;> rfl

@[simp] theorem soloEffects_config (c : Setup) (op : OpState) (n : Int) (s : State) :
    (soloEffects c op n s).config = s.config := by unfold soloEffects; split <;> rfl

@[simp] theorem soloEffects_supply (c : Setup) (op : OpState) (n : Int) (s : State) :
    (soloEffects c op n s).supply = s.supply := by unfold soloEffects; split <;> rfl

@[simp] theorem soloEffects_sp (c : Setup) (op : OpState) (n : Int) (s : State) :
    (soloEffects c op n s).sp = s.sp := by unfold soloEffects; split <;> rfl

@[simp] theorem soloEffects_ne (c : Setup) (op : OpState) (n : Int) (s : State) :
    (soloEffects c op n s).ne = s.ne := by unfold soloEffects; split <;> rfl

@[simp] theorem soloEffects_it (c : Setup) (op : OpState) (n : Int) (s : State) :
    (soloEffects c op n s).it = s.it := by unfold soloEffects; split <;> rfl

@[simp] theorem soloEffects_rb (c : Setup) (op : OpState) (n : Int) (s : State) :
    (soloEffects c op n s).rb = s.rb := by unfold soloEffects; split <;> rfl

@[simp] theorem soloEffects_line (c : Setup) (op : OpState) (n : Int) (s : State) :
    (soloEffects c op n s).line = s.line := by unfold soloEffects; split <;> rfl

@[simp] theorem soloEffects_store (c : Setup) (op : OpState) (n : Int) (s : State) :
    (soloEffects c op n s).store = s.store := by unfold soloEffects; split <;> rfl

@[simp] theorem soloEffects_alerts (c : Setup) (op : OpState) (n : Int) (s : State) :
    (soloEffects c op n s).alerts = s.alerts := by unfold soloEffects; split <;> rfl

@[simp] theorem soloEffects_port (c : Setup) (op : OpState) (n : Int) (s : State) :
    (soloEffects c op n s).port = s.port := by unfold soloEffects; split <;> rfl

@[simp] theorem soloEffects_isLive (c : Setup) (op : OpState) (n : Int) (s : State) :
    isLive (soloEffects c op n s) = isLive s := by simp [isLive]

/-! ### `earlyClose` -/

@[simp] theorem earlyClose_pending (c : Setup) (k : EarlyCause) (s : State) :
    (earlyClose c k s).pending = s.pending := by simp [earlyClose]

@[simp] theorem earlyClose_draws (c : Setup) (k : EarlyCause) (s : State) :
    (earlyClose c k s).draws = s.draws := by simp [earlyClose]

@[simp] theorem earlyClose_config (c : Setup) (k : EarlyCause) (s : State) :
    (earlyClose c k s).config = s.config := by simp [earlyClose]

@[simp] theorem earlyClose_supply (c : Setup) (k : EarlyCause) (s : State) :
    (earlyClose c k s).supply = s.supply := by simp [earlyClose]

@[simp] theorem earlyClose_sp (c : Setup) (k : EarlyCause) (s : State) :
    (earlyClose c k s).sp = s.sp := by simp [earlyClose]

@[simp] theorem earlyClose_port (c : Setup) (k : EarlyCause) (s : State) :
    (earlyClose c k s).port = s.port := by simp [earlyClose]

@[simp] theorem earlyClose_isLive (c : Setup) (k : EarlyCause) (s : State) :
    isLive (earlyClose c k s) = isLive s := by simp [isLive]

/-! ### `takeDueBlock` -/

@[simp] theorem takeDueBlock_pending (c : Setup) (s : State) :
    (takeDueBlock c s).pending = s.pending := by unfold takeDueBlock; split <;> simp

@[simp] theorem takeDueBlock_draws (c : Setup) (s : State) :
    (takeDueBlock c s).draws = s.draws := by unfold takeDueBlock; split <;> simp

@[simp] theorem takeDueBlock_config (c : Setup) (s : State) :
    (takeDueBlock c s).config = s.config := by unfold takeDueBlock; split <;> simp

@[simp] theorem takeDueBlock_supply (c : Setup) (s : State) :
    (takeDueBlock c s).supply = s.supply := by unfold takeDueBlock; split <;> simp

@[simp] theorem takeDueBlock_sp (c : Setup) (s : State) :
    (takeDueBlock c s).sp = s.sp := by unfold takeDueBlock; split <;> simp

@[simp] theorem takeDueBlock_it (c : Setup) (s : State) :
    (takeDueBlock c s).it = s.it := by unfold takeDueBlock; split <;> simp

@[simp] theorem takeDueBlock_line (c : Setup) (s : State) :
    (takeDueBlock c s).line = s.line := by unfold takeDueBlock; split <;> simp

@[simp] theorem takeDueBlock_su (c : Setup) (s : State) :
    (takeDueBlock c s).su = s.su := by unfold takeDueBlock; split <;> simp

@[simp] theorem takeDueBlock_store (c : Setup) (s : State) :
    (takeDueBlock c s).store = s.store := by unfold takeDueBlock; split <;> simp

@[simp] theorem takeDueBlock_port (c : Setup) (s : State) :
    (takeDueBlock c s).port = s.port := by unfold takeDueBlock; split <;> simp

@[simp] theorem takeDueBlock_isLive (c : Setup) (s : State) :
    isLive (takeDueBlock c s) = isLive s := by simp [isLive]

/-! ### `takeDueBoundary` -/

@[simp] theorem takeDueBoundary_pending (c : Setup) (s : State) :
    (takeDueBoundary c s).pending = s.pending := by unfold takeDueBoundary; (repeat' split) <;> simp

@[simp] theorem takeDueBoundary_draws (c : Setup) (s : State) :
    (takeDueBoundary c s).draws = s.draws := by unfold takeDueBoundary; (repeat' split) <;> simp

@[simp] theorem takeDueBoundary_config (c : Setup) (s : State) :
    (takeDueBoundary c s).config = s.config := by unfold takeDueBoundary; (repeat' split) <;> simp

@[simp] theorem takeDueBoundary_supply (c : Setup) (s : State) :
    (takeDueBoundary c s).supply = s.supply := by unfold takeDueBoundary; (repeat' split) <;> simp

@[simp] theorem takeDueBoundary_sp (c : Setup) (s : State) :
    (takeDueBoundary c s).sp = s.sp := by unfold takeDueBoundary; (repeat' split) <;> simp

@[simp] theorem takeDueBoundary_port (c : Setup) (s : State) :
    (takeDueBoundary c s).port = s.port := by unfold takeDueBoundary; (repeat' split) <;> simp

@[simp] theorem takeDueBoundary_isLive (c : Setup) (s : State) :
    isLive (takeDueBoundary c s) = isLive s := by simp [isLive]

/-! ### `takeDueWindow` -/

@[simp] theorem takeDueWindow_pending (c : Setup) (s : State) :
    (takeDueWindow c s).pending = s.pending := by unfold takeDueWindow; split <;> simp

@[simp] theorem takeDueWindow_draws (c : Setup) (s : State) :
    (takeDueWindow c s).draws = s.draws := by unfold takeDueWindow; split <;> simp

@[simp] theorem takeDueWindow_config (c : Setup) (s : State) :
    (takeDueWindow c s).config = s.config := by unfold takeDueWindow; split <;> simp

@[simp] theorem takeDueWindow_supply (c : Setup) (s : State) :
    (takeDueWindow c s).supply = s.supply := by unfold takeDueWindow; split <;> simp

@[simp] theorem takeDueWindow_sp (c : Setup) (s : State) :
    (takeDueWindow c s).sp = s.sp := by unfold takeDueWindow; split <;> simp

@[simp] theorem takeDueWindow_ne (c : Setup) (s : State) :
    (takeDueWindow c s).ne = s.ne := by unfold takeDueWindow; split <;> simp

@[simp] theorem takeDueWindow_rb (c : Setup) (s : State) :
    (takeDueWindow c s).rb = s.rb := by unfold takeDueWindow; split <;> simp

@[simp] theorem takeDueWindow_port (c : Setup) (s : State) :
    (takeDueWindow c s).port = s.port := by unfold takeDueWindow; split <;> simp

@[simp] theorem takeDueWindow_isLive (c : Setup) (s : State) :
    isLive (takeDueWindow c s) = isLive s := by simp [isLive]

/-! ### `takeDue` -/

@[simp] theorem takeDue_pending (s : State) :
    (takeDue s).pending = s.pending := by unfold takeDue; split <;> simp

@[simp] theorem takeDue_draws (s : State) :
    (takeDue s).draws = s.draws := by unfold takeDue; split <;> simp

@[simp] theorem takeDue_config (s : State) :
    (takeDue s).config = s.config := by unfold takeDue; split <;> simp

@[simp] theorem takeDue_supply (s : State) :
    (takeDue s).supply = s.supply := by unfold takeDue; split <;> simp

@[simp] theorem takeDue_sp (s : State) :
    (takeDue s).sp = s.sp := by unfold takeDue; split <;> simp

@[simp] theorem takeDue_port (s : State) :
    (takeDue s).port = s.port := by unfold takeDue; split <;> simp

@[simp] theorem takeDue_isLive (s : State) :
    isLive (takeDue s) = isLive s := by simp [isLive]

/-! ### `takeAllDue` -/

@[simp] theorem takeAllDue_pending (c : Setup) (s : State) :
    (takeAllDue c s).pending = s.pending := by simp [takeAllDue]

@[simp] theorem takeAllDue_draws (c : Setup) (s : State) :
    (takeAllDue c s).draws = s.draws := by simp [takeAllDue]

@[simp] theorem takeAllDue_config (c : Setup) (s : State) :
    (takeAllDue c s).config = s.config := by simp [takeAllDue]

@[simp] theorem takeAllDue_supply (c : Setup) (s : State) :
    (takeAllDue c s).supply = s.supply := by simp [takeAllDue]

@[simp] theorem takeAllDue_sp (c : Setup) (s : State) :
    (takeAllDue c s).sp = s.sp := by simp [takeAllDue]

@[simp] theorem takeAllDue_port (c : Setup) (s : State) :
    (takeAllDue c s).port = s.port := by simp [takeAllDue]

@[simp] theorem takeAllDue_isLive (c : Setup) (s : State) :
    isLive (takeAllDue c s) = isLive s := by simp [isLive]

/-! ### `countSet` -/

@[simp] theorem countSet_pending (c : Setup) (p : Products) (s : State) :
    (countSet c p s).pending = s.pending := rfl

@[simp] theorem countSet_draws (c : Setup) (p : Products) (s : State) :
    (countSet c p s).draws = s.draws := rfl

@[simp] theorem countSet_config (c : Setup) (p : Products) (s : State) :
    (countSet c p s).config = s.config := rfl

@[simp] theorem countSet_supply (c : Setup) (p : Products) (s : State) :
    (countSet c p s).supply = s.supply := rfl

@[simp] theorem countSet_sp (c : Setup) (p : Products) (s : State) :
    (countSet c p s).sp = s.sp := rfl

@[simp] theorem countSet_rb (c : Setup) (p : Products) (s : State) :
    (countSet c p s).rb = s.rb := rfl

@[simp] theorem countSet_line (c : Setup) (p : Products) (s : State) :
    (countSet c p s).line = s.line := rfl

@[simp] theorem countSet_su (c : Setup) (p : Products) (s : State) :
    (countSet c p s).su = s.su := rfl

@[simp] theorem countSet_el (c : Setup) (p : Products) (s : State) :
    (countSet c p s).el = s.el := rfl

@[simp] theorem countSet_store (c : Setup) (p : Products) (s : State) :
    (countSet c p s).store = s.store := rfl

@[simp] theorem countSet_alerts (c : Setup) (p : Products) (s : State) :
    (countSet c p s).alerts = s.alerts := rfl

@[simp] theorem countSet_port (c : Setup) (p : Products) (s : State) :
    (countSet c p s).port = s.port := rfl

@[simp] theorem countSet_isLive (c : Setup) (p : Products) (s : State) :
    isLive (countSet c p s) = isLive s := by simp [isLive]

/-! ### `missingSet` -/

@[simp] theorem missingSet_pending (c : Setup) (s : State) :
    (missingSet c s).pending = s.pending := by simp [missingSet]

@[simp] theorem missingSet_draws (c : Setup) (s : State) :
    (missingSet c s).draws = s.draws := by simp [missingSet]

@[simp] theorem missingSet_config (c : Setup) (s : State) :
    (missingSet c s).config = s.config := by simp [missingSet]

@[simp] theorem missingSet_supply (c : Setup) (s : State) :
    (missingSet c s).supply = s.supply := by simp [missingSet]

@[simp] theorem missingSet_port (c : Setup) (s : State) :
    (missingSet c s).port = s.port := by simp [missingSet]

@[simp] theorem missingSet_isLive (c : Setup) (s : State) :
    isLive (missingSet c s) = isLive s := by simp [isLive]

/-! ### `missingSets` -/

@[simp] theorem missingSets_pending (c : Setup) (k : Nat) (s : State) :
    (missingSets c k s).pending = s.pending := by
  induction k generalizing s with
  | zero => rfl
  | succ k ih => simp [missingSets, ih]

@[simp] theorem missingSets_draws (c : Setup) (k : Nat) (s : State) :
    (missingSets c k s).draws = s.draws := by
  induction k generalizing s with
  | zero => rfl
  | succ k ih => simp [missingSets, ih]

@[simp] theorem missingSets_config (c : Setup) (k : Nat) (s : State) :
    (missingSets c k s).config = s.config := by
  induction k generalizing s with
  | zero => rfl
  | succ k ih => simp [missingSets, ih]

@[simp] theorem missingSets_supply (c : Setup) (k : Nat) (s : State) :
    (missingSets c k s).supply = s.supply := by
  induction k generalizing s with
  | zero => rfl
  | succ k ih => simp [missingSets, ih]

@[simp] theorem missingSets_port (c : Setup) (k : Nat) (s : State) :
    (missingSets c k s).port = s.port := by
  induction k generalizing s with
  | zero => rfl
  | succ k ih => simp [missingSets, ih]

@[simp] theorem missingSets_isLive (c : Setup) (k : Nat) (s : State) :
    isLive (missingSets c k s) = isLive s := by simp [isLive]

/-! ### `receivedSet` -/

@[simp] theorem receivedSet_pending (c : Setup) (q : BitVec 8) (x : Samples) (s : State) :
    (receivedSet c q x s).pending = s.pending := by simp [receivedSet]

@[simp] theorem receivedSet_draws (c : Setup) (q : BitVec 8) (x : Samples) (s : State) :
    (receivedSet c q x s).draws = s.draws := by simp [receivedSet]

@[simp] theorem receivedSet_config (c : Setup) (q : BitVec 8) (x : Samples) (s : State) :
    (receivedSet c q x s).config = s.config := by simp [receivedSet]

@[simp] theorem receivedSet_supply (c : Setup) (q : BitVec 8) (x : Samples) (s : State) :
    (receivedSet c q x s).supply = s.supply := by simp [receivedSet]

@[simp] theorem receivedSet_port (c : Setup) (q : BitVec 8) (x : Samples) (s : State) :
    (receivedSet c q x s).port = s.port := by simp [receivedSet]

@[simp] theorem receivedSet_isLive (c : Setup) (q : BitVec 8) (x : Samples) (s : State) :
    isLive (receivedSet c q x s) = isLive s := by simp [isLive]

/-! ### `takeFrame` -/

@[simp] theorem takeFrame_pending (c : Setup) (bytes : List Byte) (s : State) :
    (takeFrame c bytes s).pending = s.pending := by unfold takeFrame; dsimp only; (repeat' split) <;> simp

@[simp] theorem takeFrame_draws (c : Setup) (bytes : List Byte) (s : State) :
    (takeFrame c bytes s).draws = s.draws := by unfold takeFrame; dsimp only; (repeat' split) <;> simp

@[simp] theorem takeFrame_config (c : Setup) (bytes : List Byte) (s : State) :
    (takeFrame c bytes s).config = s.config := by unfold takeFrame; dsimp only; (repeat' split) <;> simp

@[simp] theorem takeFrame_supply (c : Setup) (bytes : List Byte) (s : State) :
    (takeFrame c bytes s).supply = s.supply := by unfold takeFrame; dsimp only; (repeat' split) <;> simp

@[simp] theorem takeFrame_port (c : Setup) (bytes : List Byte) (s : State) :
    (takeFrame c bytes s).port = s.port := by unfold takeFrame; dsimp only; (repeat' split) <;> simp

@[simp] theorem takeFrame_isLive (c : Setup) (bytes : List Byte) (s : State) :
    isLive (takeFrame c bytes s) = isLive s := by simp [isLive]

/-! ### `sampleArrives` -/

@[simp] theorem sampleArrives_pending (bytes : List Byte) (n : Nat) (b : Bool) (s : State) :
    (sampleArrives bytes n b s).pending = s.pending := by unfold sampleArrives; (repeat' split) <;> simp

@[simp] theorem sampleArrives_draws (bytes : List Byte) (n : Nat) (b : Bool) (s : State) :
    (sampleArrives bytes n b s).draws = s.draws := by unfold sampleArrives; (repeat' split) <;> simp

@[simp] theorem sampleArrives_config (bytes : List Byte) (n : Nat) (b : Bool) (s : State) :
    (sampleArrives bytes n b s).config = s.config := by unfold sampleArrives; (repeat' split) <;> simp

@[simp] theorem sampleArrives_supply (bytes : List Byte) (n : Nat) (b : Bool) (s : State) :
    (sampleArrives bytes n b s).supply = s.supply := by unfold sampleArrives; (repeat' split) <;> simp

@[simp] theorem sampleArrives_port (bytes : List Byte) (n : Nat) (b : Bool) (s : State) :
    (sampleArrives bytes n b s).port = s.port := by unfold sampleArrives; (repeat' split) <;> simp

@[simp] theorem sampleArrives_isLive (bytes : List Byte) (n : Nat) (b : Bool) (s : State) :
    isLive (sampleArrives bytes n b s) = isLive s := by simp [isLive]

/-! ### `watchdogExpires` -/

@[simp] theorem watchdogExpires_pending (s : State) :
    (watchdogExpires s).pending = s.pending := by unfold watchdogExpires; (repeat' split) <;> simp

@[simp] theorem watchdogExpires_draws (s : State) :
    (watchdogExpires s).draws = s.draws := by unfold watchdogExpires; (repeat' split) <;> simp

@[simp] theorem watchdogExpires_config (s : State) :
    (watchdogExpires s).config = s.config := by unfold watchdogExpires; (repeat' split) <;> simp

@[simp] theorem watchdogExpires_supply (s : State) :
    (watchdogExpires s).supply = s.supply := by unfold watchdogExpires; (repeat' split) <;> simp

@[simp] theorem watchdogExpires_port (s : State) :
    (watchdogExpires s).port = s.port := by unfold watchdogExpires; (repeat' split) <;> simp

@[simp] theorem watchdogExpires_isLive (s : State) :
    isLive (watchdogExpires s) = isLive s := by simp [isLive]

/-! ### `blockCloses` -/

@[simp] theorem blockCloses_pending (s : State) :
    (blockCloses s).pending = s.pending := by unfold blockCloses; split <;> simp

@[simp] theorem blockCloses_draws (s : State) :
    (blockCloses s).draws = s.draws := by unfold blockCloses; split <;> simp

@[simp] theorem blockCloses_config (s : State) :
    (blockCloses s).config = s.config := by unfold blockCloses; split <;> simp

@[simp] theorem blockCloses_supply (s : State) :
    (blockCloses s).supply = s.supply := by unfold blockCloses; split <;> simp

@[simp] theorem blockCloses_sp (s : State) :
    (blockCloses s).sp = s.sp := by unfold blockCloses; split <;> simp

@[simp] theorem blockCloses_it (s : State) :
    (blockCloses s).it = s.it := by unfold blockCloses; split <;> simp

@[simp] theorem blockCloses_line (s : State) :
    (blockCloses s).line = s.line := by unfold blockCloses; split <;> simp

@[simp] theorem blockCloses_su (s : State) :
    (blockCloses s).su = s.su := by unfold blockCloses; split <;> simp

@[simp] theorem blockCloses_store (s : State) :
    (blockCloses s).store = s.store := by unfold blockCloses; split <;> simp

@[simp] theorem blockCloses_port (s : State) :
    (blockCloses s).port = s.port := by unfold blockCloses; split <;> simp

@[simp] theorem blockCloses_isLive (s : State) :
    isLive (blockCloses s) = isLive s := by simp [isLive]

/-! ### `wakeBlocks` -/

@[simp] theorem wakeBlocks_pending (s : State) :
    (wakeBlocks s).pending = s.pending := rfl

@[simp] theorem wakeBlocks_draws (s : State) :
    (wakeBlocks s).draws = s.draws := rfl

@[simp] theorem wakeBlocks_config (s : State) :
    (wakeBlocks s).config = s.config := rfl

@[simp] theorem wakeBlocks_supply (s : State) :
    (wakeBlocks s).supply = s.supply := rfl

@[simp] theorem wakeBlocks_ne (s : State) :
    (wakeBlocks s).ne = s.ne := rfl

@[simp] theorem wakeBlocks_it (s : State) :
    (wakeBlocks s).it = s.it := rfl

@[simp] theorem wakeBlocks_rb (s : State) :
    (wakeBlocks s).rb = s.rb := rfl

@[simp] theorem wakeBlocks_su (s : State) :
    (wakeBlocks s).su = s.su := rfl

@[simp] theorem wakeBlocks_store (s : State) :
    (wakeBlocks s).store = s.store := rfl

@[simp] theorem wakeBlocks_alerts (s : State) :
    (wakeBlocks s).alerts = s.alerts := rfl

@[simp] theorem wakeBlocks_port (s : State) :
    (wakeBlocks s).port = s.port := rfl

@[simp] theorem wakeBlocks_isLive (s : State) :
    isLive (wakeBlocks s) = isLive s := by simp [isLive]

/-! ### `enterRun` -/

@[simp] theorem enterRun_pending (c : Setup) (id : IntervalId) (e : Nat) (s : State) :
    (enterRun c id e s).pending = s.pending := by simp [enterRun]

@[simp] theorem enterRun_draws (c : Setup) (id : IntervalId) (e : Nat) (s : State) :
    (enterRun c id e s).draws = s.draws := by simp [enterRun]

@[simp] theorem enterRun_config (c : Setup) (id : IntervalId) (e : Nat) (s : State) :
    (enterRun c id e s).config = s.config := by simp [enterRun]

@[simp] theorem enterRun_sp (c : Setup) (id : IntervalId) (e : Nat) (s : State) :
    (enterRun c id e s).sp = s.sp := by simp [enterRun]

@[simp] theorem enterRun_ne (c : Setup) (id : IntervalId) (e : Nat) (s : State) :
    (enterRun c id e s).ne = s.ne := by simp [enterRun]

@[simp] theorem enterRun_su (c : Setup) (id : IntervalId) (e : Nat) (s : State) :
    (enterRun c id e s).su = s.su := by simp [enterRun]

@[simp] theorem enterRun_store (c : Setup) (id : IntervalId) (e : Nat) (s : State) :
    (enterRun c id e s).store = s.store := by simp [enterRun]

@[simp] theorem enterRun_alerts (c : Setup) (id : IntervalId) (e : Nat) (s : State) :
    (enterRun c id e s).alerts = s.alerts := by simp [enterRun]

@[simp] theorem enterRun_port (c : Setup) (id : IntervalId) (e : Nat) (s : State) :
    (enterRun c id e s).port = s.port := by simp [enterRun]

/-! ### `enterResync` -/

@[simp] theorem enterResync_pending (c : Setup) (id : IntervalId) (s : State) :
    (enterResync c id s).pending = s.pending := by simp [enterResync]

@[simp] theorem enterResync_draws (c : Setup) (id : IntervalId) (s : State) :
    (enterResync c id s).draws = s.draws := by simp [enterResync]

@[simp] theorem enterResync_config (c : Setup) (id : IntervalId) (s : State) :
    (enterResync c id s).config = s.config := by simp [enterResync]

@[simp] theorem enterResync_sp (c : Setup) (id : IntervalId) (s : State) :
    (enterResync c id s).sp = s.sp := by simp [enterResync]

@[simp] theorem enterResync_ne (c : Setup) (id : IntervalId) (s : State) :
    (enterResync c id s).ne = s.ne := by simp [enterResync]

@[simp] theorem enterResync_su (c : Setup) (id : IntervalId) (s : State) :
    (enterResync c id s).su = s.su := by simp [enterResync]

@[simp] theorem enterResync_store (c : Setup) (id : IntervalId) (s : State) :
    (enterResync c id s).store = s.store := by simp [enterResync]

@[simp] theorem enterResync_alerts (c : Setup) (id : IntervalId) (s : State) :
    (enterResync c id s).alerts = s.alerts := by simp [enterResync]

@[simp] theorem enterResync_port (c : Setup) (id : IntervalId) (s : State) :
    (enterResync c id s).port = s.port := by simp [enterResync]

/-! ### `holdClose` -/

@[simp] theorem holdClose_pending (s : State) :
    (holdClose s).pending = s.pending := by unfold holdClose; (repeat' split) <;> simp

@[simp] theorem holdClose_draws (s : State) :
    (holdClose s).draws = s.draws := by unfold holdClose; (repeat' split) <;> simp

@[simp] theorem holdClose_config (s : State) :
    (holdClose s).config = s.config := by unfold holdClose; (repeat' split) <;> simp

@[simp] theorem holdClose_supply (s : State) :
    (holdClose s).supply = s.supply := by unfold holdClose; (repeat' split) <;> simp

@[simp] theorem holdClose_sp (s : State) :
    (holdClose s).sp = s.sp := by unfold holdClose; (repeat' split) <;> simp

@[simp] theorem holdClose_port (s : State) :
    (holdClose s).port = s.port := by unfold holdClose; (repeat' split) <;> simp

@[simp] theorem holdClose_isLive (s : State) :
    isLive (holdClose s) = isLive s := by simp [isLive]

/-! ### `enterHold` -/

@[simp] theorem enterHold_pending (p : Bool) (s : State) :
    (enterHold p s).pending = s.pending := by simp [enterHold]

@[simp] theorem enterHold_draws (p : Bool) (s : State) :
    (enterHold p s).draws = s.draws := by simp [enterHold]

@[simp] theorem enterHold_config (p : Bool) (s : State) :
    (enterHold p s).config = s.config := by simp [enterHold]

@[simp] theorem enterHold_port (p : Bool) (s : State) :
    (enterHold p s).port = s.port := by simp [enterHold]

/-! ### `holdIfWarned` -/

@[simp] theorem holdIfWarned_pending (s : State) :
    (holdIfWarned s).pending = s.pending := by unfold holdIfWarned; split <;> simp

@[simp] theorem holdIfWarned_draws (s : State) :
    (holdIfWarned s).draws = s.draws := by unfold holdIfWarned; split <;> simp

@[simp] theorem holdIfWarned_config (s : State) :
    (holdIfWarned s).config = s.config := by unfold holdIfWarned; split <;> simp

@[simp] theorem holdIfWarned_port (s : State) :
    (holdIfWarned s).port = s.port := by unfold holdIfWarned; split <;> simp

/-! ### `endHold` -/

@[simp] theorem endHold_pending (s : State) :
    (endHold s).pending = s.pending := rfl

@[simp] theorem endHold_draws (s : State) :
    (endHold s).draws = s.draws := rfl

@[simp] theorem endHold_config (s : State) :
    (endHold s).config = s.config := rfl

@[simp] theorem endHold_sp (s : State) :
    (endHold s).sp = s.sp := rfl

@[simp] theorem endHold_ne (s : State) :
    (endHold s).ne = s.ne := rfl

@[simp] theorem endHold_it (s : State) :
    (endHold s).it = s.it := rfl

@[simp] theorem endHold_rb (s : State) :
    (endHold s).rb = s.rb := rfl

@[simp] theorem endHold_line (s : State) :
    (endHold s).line = s.line := rfl

@[simp] theorem endHold_su (s : State) :
    (endHold s).su = s.su := rfl

@[simp] theorem endHold_el (s : State) :
    (endHold s).el = s.el := rfl

@[simp] theorem endHold_store (s : State) :
    (endHold s).store = s.store := rfl

@[simp] theorem endHold_port (s : State) :
    (endHold s).port = s.port := rfl

/-! ### `leaveHold` -/

@[simp] theorem leaveHold_pending (s : State) :
    (leaveHold s).pending = s.pending := by unfold leaveHold; split <;> simp

@[simp] theorem leaveHold_draws (s : State) :
    (leaveHold s).draws = s.draws := by unfold leaveHold; split <;> simp

@[simp] theorem leaveHold_config (s : State) :
    (leaveHold s).config = s.config := by unfold leaveHold; split <;> simp

@[simp] theorem leaveHold_ne (s : State) :
    (leaveHold s).ne = s.ne := by unfold leaveHold; split <;> simp

@[simp] theorem leaveHold_su (s : State) :
    (leaveHold s).su = s.su := by unfold leaveHold; split <;> simp

@[simp] theorem leaveHold_store (s : State) :
    (leaveHold s).store = s.store := by unfold leaveHold; split <;> simp

@[simp] theorem leaveHold_port (s : State) :
    (leaveHold s).port = s.port := by unfold leaveHold; split <;> simp

/-! ### `holdReset` -/

@[simp] theorem holdReset_pending (s : State) :
    (holdReset s).pending = s.pending := rfl

@[simp] theorem holdReset_draws (s : State) :
    (holdReset s).draws = s.draws := rfl

@[simp] theorem holdReset_config (s : State) :
    (holdReset s).config = s.config := rfl

@[simp] theorem holdReset_sp (s : State) :
    (holdReset s).sp = s.sp := rfl

@[simp] theorem holdReset_ne (s : State) :
    (holdReset s).ne = s.ne := rfl

@[simp] theorem holdReset_it (s : State) :
    (holdReset s).it = s.it := rfl

@[simp] theorem holdReset_rb (s : State) :
    (holdReset s).rb = s.rb := rfl

@[simp] theorem holdReset_line (s : State) :
    (holdReset s).line = s.line := rfl

@[simp] theorem holdReset_su (s : State) :
    (holdReset s).su = s.su := rfl

@[simp] theorem holdReset_el (s : State) :
    (holdReset s).el = s.el := rfl

@[simp] theorem holdReset_store (s : State) :
    (holdReset s).store = s.store := rfl

@[simp] theorem holdReset_alerts (s : State) :
    (holdReset s).alerts = s.alerts := rfl

/-! ### `endReset` -/

@[simp] theorem endReset_pending (p q : Bool) (s : State) :
    (endReset p q s).pending = s.pending := rfl

@[simp] theorem endReset_draws (p q : Bool) (s : State) :
    (endReset p q s).draws = s.draws := rfl

@[simp] theorem endReset_config (p q : Bool) (s : State) :
    (endReset p q s).config = s.config := rfl

@[simp] theorem endReset_sp (p q : Bool) (s : State) :
    (endReset p q s).sp = s.sp := rfl

@[simp] theorem endReset_ne (p q : Bool) (s : State) :
    (endReset p q s).ne = s.ne := rfl

@[simp] theorem endReset_it (p q : Bool) (s : State) :
    (endReset p q s).it = s.it := rfl

@[simp] theorem endReset_rb (p q : Bool) (s : State) :
    (endReset p q s).rb = s.rb := rfl

@[simp] theorem endReset_line (p q : Bool) (s : State) :
    (endReset p q s).line = s.line := rfl

@[simp] theorem endReset_su (p q : Bool) (s : State) :
    (endReset p q s).su = s.su := rfl

@[simp] theorem endReset_el (p q : Bool) (s : State) :
    (endReset p q s).el = s.el := rfl

@[simp] theorem endReset_store (p q : Bool) (s : State) :
    (endReset p q s).store = s.store := rfl

/-! ### `resetPhase` -/

@[simp] theorem resetPhase_pending (r : ResetPhase) (s : State) :
    (resetPhase r s).pending = s.pending := by unfold resetPhase; split <;> rfl

@[simp] theorem resetPhase_draws (r : ResetPhase) (s : State) :
    (resetPhase r s).draws = s.draws := by unfold resetPhase; split <;> rfl

@[simp] theorem resetPhase_config (r : ResetPhase) (s : State) :
    (resetPhase r s).config = s.config := by unfold resetPhase; split <;> rfl

@[simp] theorem resetPhase_sp (r : ResetPhase) (s : State) :
    (resetPhase r s).sp = s.sp := by unfold resetPhase; split <;> rfl

@[simp] theorem resetPhase_ne (r : ResetPhase) (s : State) :
    (resetPhase r s).ne = s.ne := by unfold resetPhase; split <;> rfl

@[simp] theorem resetPhase_it (r : ResetPhase) (s : State) :
    (resetPhase r s).it = s.it := by unfold resetPhase; split <;> rfl

@[simp] theorem resetPhase_rb (r : ResetPhase) (s : State) :
    (resetPhase r s).rb = s.rb := by unfold resetPhase; split <;> rfl

@[simp] theorem resetPhase_line (r : ResetPhase) (s : State) :
    (resetPhase r s).line = s.line := by unfold resetPhase; split <;> rfl

@[simp] theorem resetPhase_su (r : ResetPhase) (s : State) :
    (resetPhase r s).su = s.su := by unfold resetPhase; split <;> rfl

@[simp] theorem resetPhase_el (r : ResetPhase) (s : State) :
    (resetPhase r s).el = s.el := by unfold resetPhase; split <;> rfl

@[simp] theorem resetPhase_store (r : ResetPhase) (s : State) :
    (resetPhase r s).store = s.store := by unfold resetPhase; split <;> rfl

/-! ### `alertBlocked` -/

@[simp] theorem alertBlocked_pending (s : State) :
    (alertBlocked s).pending = s.pending := rfl

@[simp] theorem alertBlocked_draws (s : State) :
    (alertBlocked s).draws = s.draws := rfl

@[simp] theorem alertBlocked_config (s : State) :
    (alertBlocked s).config = s.config := rfl

@[simp] theorem alertBlocked_supply (s : State) :
    (alertBlocked s).supply = s.supply := rfl

@[simp] theorem alertBlocked_sp (s : State) :
    (alertBlocked s).sp = s.sp := rfl

@[simp] theorem alertBlocked_ne (s : State) :
    (alertBlocked s).ne = s.ne := rfl

@[simp] theorem alertBlocked_it (s : State) :
    (alertBlocked s).it = s.it := rfl

@[simp] theorem alertBlocked_rb (s : State) :
    (alertBlocked s).rb = s.rb := rfl

@[simp] theorem alertBlocked_line (s : State) :
    (alertBlocked s).line = s.line := rfl

@[simp] theorem alertBlocked_su (s : State) :
    (alertBlocked s).su = s.su := rfl

@[simp] theorem alertBlocked_el (s : State) :
    (alertBlocked s).el = s.el := rfl

@[simp] theorem alertBlocked_store (s : State) :
    (alertBlocked s).store = s.store := rfl

@[simp] theorem alertBlocked_port (s : State) :
    (alertBlocked s).port = s.port := rfl

@[simp] theorem alertBlocked_isLive (s : State) :
    isLive (alertBlocked s) = isLive s := by simp [isLive]

/-! ### `receptionStarts` -/

@[simp] theorem receptionStarts_pending (ch : Channel) (s : State) :
    (receptionStarts ch s).pending = s.pending := by unfold receptionStarts; split <;> simp

@[simp] theorem receptionStarts_draws (ch : Channel) (s : State) :
    (receptionStarts ch s).draws = s.draws := by unfold receptionStarts; split <;> simp

@[simp] theorem receptionStarts_config (ch : Channel) (s : State) :
    (receptionStarts ch s).config = s.config := by unfold receptionStarts; split <;> simp

@[simp] theorem receptionStarts_supply (ch : Channel) (s : State) :
    (receptionStarts ch s).supply = s.supply := by unfold receptionStarts; split <;> simp

@[simp] theorem receptionStarts_sp (ch : Channel) (s : State) :
    (receptionStarts ch s).sp = s.sp := by unfold receptionStarts; split <;> simp

@[simp] theorem receptionStarts_ne (ch : Channel) (s : State) :
    (receptionStarts ch s).ne = s.ne := by unfold receptionStarts; split <;> simp

@[simp] theorem receptionStarts_rb (ch : Channel) (s : State) :
    (receptionStarts ch s).rb = s.rb := by unfold receptionStarts; split <;> simp

@[simp] theorem receptionStarts_su (ch : Channel) (s : State) :
    (receptionStarts ch s).su = s.su := by unfold receptionStarts; split <;> simp

@[simp] theorem receptionStarts_el (ch : Channel) (s : State) :
    (receptionStarts ch s).el = s.el := by unfold receptionStarts; split <;> simp

@[simp] theorem receptionStarts_store (ch : Channel) (s : State) :
    (receptionStarts ch s).store = s.store := by unfold receptionStarts; split <;> simp

@[simp] theorem receptionStarts_alerts (ch : Channel) (s : State) :
    (receptionStarts ch s).alerts = s.alerts := by unfold receptionStarts; split <;> simp

@[simp] theorem receptionStarts_port (ch : Channel) (s : State) :
    (receptionStarts ch s).port = s.port := by unfold receptionStarts; split <;> simp

@[simp] theorem receptionStarts_isLive (ch : Channel) (s : State) :
    isLive (receptionStarts ch s) = isLive s := by simp [isLive]

/-! ### `countError` -/

@[simp] theorem countError_pending (ch : Channel) (s : State) :
    (countError ch s).pending = s.pending := rfl

@[simp] theorem countError_draws (ch : Channel) (s : State) :
    (countError ch s).draws = s.draws := rfl

@[simp] theorem countError_config (ch : Channel) (s : State) :
    (countError ch s).config = s.config := rfl

@[simp] theorem countError_supply (ch : Channel) (s : State) :
    (countError ch s).supply = s.supply := rfl

@[simp] theorem countError_sp (ch : Channel) (s : State) :
    (countError ch s).sp = s.sp := rfl

@[simp] theorem countError_ne (ch : Channel) (s : State) :
    (countError ch s).ne = s.ne := rfl

@[simp] theorem countError_it (ch : Channel) (s : State) :
    (countError ch s).it = s.it := rfl

@[simp] theorem countError_rb (ch : Channel) (s : State) :
    (countError ch s).rb = s.rb := rfl

@[simp] theorem countError_su (ch : Channel) (s : State) :
    (countError ch s).su = s.su := rfl

@[simp] theorem countError_el (ch : Channel) (s : State) :
    (countError ch s).el = s.el := rfl

@[simp] theorem countError_store (ch : Channel) (s : State) :
    (countError ch s).store = s.store := rfl

@[simp] theorem countError_port (ch : Channel) (s : State) :
    (countError ch s).port = s.port := rfl

@[simp] theorem countError_isLive (ch : Channel) (s : State) :
    isLive (countError ch s) = isLive s := by simp [isLive]

/-! ### `countGood` -/

@[simp] theorem countGood_pending (ch : Channel) (s : State) :
    (countGood ch s).pending = s.pending := rfl

@[simp] theorem countGood_draws (ch : Channel) (s : State) :
    (countGood ch s).draws = s.draws := rfl

@[simp] theorem countGood_config (ch : Channel) (s : State) :
    (countGood ch s).config = s.config := rfl

@[simp] theorem countGood_supply (ch : Channel) (s : State) :
    (countGood ch s).supply = s.supply := rfl

@[simp] theorem countGood_sp (ch : Channel) (s : State) :
    (countGood ch s).sp = s.sp := rfl

@[simp] theorem countGood_ne (ch : Channel) (s : State) :
    (countGood ch s).ne = s.ne := rfl

@[simp] theorem countGood_it (ch : Channel) (s : State) :
    (countGood ch s).it = s.it := rfl

@[simp] theorem countGood_rb (ch : Channel) (s : State) :
    (countGood ch s).rb = s.rb := rfl

@[simp] theorem countGood_su (ch : Channel) (s : State) :
    (countGood ch s).su = s.su := rfl

@[simp] theorem countGood_el (ch : Channel) (s : State) :
    (countGood ch s).el = s.el := rfl

@[simp] theorem countGood_store (ch : Channel) (s : State) :
    (countGood ch s).store = s.store := rfl

@[simp] theorem countGood_alerts (ch : Channel) (s : State) :
    (countGood ch s).alerts = s.alerts := rfl

@[simp] theorem countGood_port (ch : Channel) (s : State) :
    (countGood ch s).port = s.port := rfl

@[simp] theorem countGood_isLive (ch : Channel) (s : State) :
    isLive (countGood ch s) = isLive s := by simp [isLive]

/-! ### `malformedEnds` -/

@[simp] theorem malformedEnds_pending (ch : Channel) (s : State) :
    (malformedEnds ch s).pending = s.pending := by unfold malformedEnds; split <;> simp

@[simp] theorem malformedEnds_draws (ch : Channel) (s : State) :
    (malformedEnds ch s).draws = s.draws := by unfold malformedEnds; split <;> simp

@[simp] theorem malformedEnds_config (ch : Channel) (s : State) :
    (malformedEnds ch s).config = s.config := by unfold malformedEnds; split <;> simp

@[simp] theorem malformedEnds_supply (ch : Channel) (s : State) :
    (malformedEnds ch s).supply = s.supply := by unfold malformedEnds; split <;> simp

@[simp] theorem malformedEnds_sp (ch : Channel) (s : State) :
    (malformedEnds ch s).sp = s.sp := by unfold malformedEnds; split <;> simp

@[simp] theorem malformedEnds_ne (ch : Channel) (s : State) :
    (malformedEnds ch s).ne = s.ne := by unfold malformedEnds; split <;> simp

@[simp] theorem malformedEnds_it (ch : Channel) (s : State) :
    (malformedEnds ch s).it = s.it := by unfold malformedEnds; split <;> simp

@[simp] theorem malformedEnds_rb (ch : Channel) (s : State) :
    (malformedEnds ch s).rb = s.rb := by unfold malformedEnds; split <;> simp

@[simp] theorem malformedEnds_su (ch : Channel) (s : State) :
    (malformedEnds ch s).su = s.su := by unfold malformedEnds; split <;> simp

@[simp] theorem malformedEnds_el (ch : Channel) (s : State) :
    (malformedEnds ch s).el = s.el := by unfold malformedEnds; split <;> simp

@[simp] theorem malformedEnds_store (ch : Channel) (s : State) :
    (malformedEnds ch s).store = s.store := by unfold malformedEnds; split <;> simp

@[simp] theorem malformedEnds_port (ch : Channel) (s : State) :
    (malformedEnds ch s).port = s.port := by unfold malformedEnds; split <;> simp

@[simp] theorem malformedEnds_isLive (ch : Channel) (s : State) :
    isLive (malformedEnds ch s) = isLive s := by simp [isLive]

/-! ### `timeoutEnds` -/

@[simp] theorem timeoutEnds_pending (ch : Channel) (s : State) :
    (timeoutEnds ch s).pending = s.pending := by unfold timeoutEnds; split <;> simp

@[simp] theorem timeoutEnds_draws (ch : Channel) (s : State) :
    (timeoutEnds ch s).draws = s.draws := by unfold timeoutEnds; split <;> simp

@[simp] theorem timeoutEnds_config (ch : Channel) (s : State) :
    (timeoutEnds ch s).config = s.config := by unfold timeoutEnds; split <;> simp

@[simp] theorem timeoutEnds_supply (ch : Channel) (s : State) :
    (timeoutEnds ch s).supply = s.supply := by unfold timeoutEnds; split <;> simp

@[simp] theorem timeoutEnds_sp (ch : Channel) (s : State) :
    (timeoutEnds ch s).sp = s.sp := by unfold timeoutEnds; split <;> simp

@[simp] theorem timeoutEnds_ne (ch : Channel) (s : State) :
    (timeoutEnds ch s).ne = s.ne := by unfold timeoutEnds; split <;> simp

@[simp] theorem timeoutEnds_it (ch : Channel) (s : State) :
    (timeoutEnds ch s).it = s.it := by unfold timeoutEnds; split <;> simp

@[simp] theorem timeoutEnds_rb (ch : Channel) (s : State) :
    (timeoutEnds ch s).rb = s.rb := by unfold timeoutEnds; split <;> simp

@[simp] theorem timeoutEnds_su (ch : Channel) (s : State) :
    (timeoutEnds ch s).su = s.su := by unfold timeoutEnds; split <;> simp

@[simp] theorem timeoutEnds_el (ch : Channel) (s : State) :
    (timeoutEnds ch s).el = s.el := by unfold timeoutEnds; split <;> simp

@[simp] theorem timeoutEnds_store (ch : Channel) (s : State) :
    (timeoutEnds ch s).store = s.store := by unfold timeoutEnds; split <;> simp

@[simp] theorem timeoutEnds_port (ch : Channel) (s : State) :
    (timeoutEnds ch s).port = s.port := by unfold timeoutEnds; split <;> simp

@[simp] theorem timeoutEnds_isLive (ch : Channel) (s : State) :
    isLive (timeoutEnds ch s) = isLive s := by simp [isLive]

/-! ### `becomesReady` -/

@[simp] theorem becomesReady_pending (ch : Channel) (s : State) :
    (becomesReady ch s).pending = s.pending := by unfold becomesReady; dsimp only; split <;> simp

@[simp] theorem becomesReady_draws (ch : Channel) (s : State) :
    (becomesReady ch s).draws = s.draws := by unfold becomesReady; dsimp only; split <;> simp

@[simp] theorem becomesReady_config (ch : Channel) (s : State) :
    (becomesReady ch s).config = s.config := by unfold becomesReady; dsimp only; split <;> simp

@[simp] theorem becomesReady_supply (ch : Channel) (s : State) :
    (becomesReady ch s).supply = s.supply := by unfold becomesReady; dsimp only; split <;> simp

@[simp] theorem becomesReady_sp (ch : Channel) (s : State) :
    (becomesReady ch s).sp = s.sp := by unfold becomesReady; dsimp only; split <;> simp

@[simp] theorem becomesReady_ne (ch : Channel) (s : State) :
    (becomesReady ch s).ne = s.ne := by unfold becomesReady; dsimp only; split <;> simp

@[simp] theorem becomesReady_it (ch : Channel) (s : State) :
    (becomesReady ch s).it = s.it := by unfold becomesReady; dsimp only; split <;> simp

@[simp] theorem becomesReady_rb (ch : Channel) (s : State) :
    (becomesReady ch s).rb = s.rb := by unfold becomesReady; dsimp only; split <;> simp

@[simp] theorem becomesReady_su (ch : Channel) (s : State) :
    (becomesReady ch s).su = s.su := by unfold becomesReady; dsimp only; split <;> simp

@[simp] theorem becomesReady_el (ch : Channel) (s : State) :
    (becomesReady ch s).el = s.el := by unfold becomesReady; dsimp only; split <;> simp

@[simp] theorem becomesReady_store (ch : Channel) (s : State) :
    (becomesReady ch s).store = s.store := by unfold becomesReady; dsimp only; split <;> simp

@[simp] theorem becomesReady_alerts (ch : Channel) (s : State) :
    (becomesReady ch s).alerts = s.alerts := by unfold becomesReady; dsimp only; split <;> simp

@[simp] theorem becomesReady_port (ch : Channel) (s : State) :
    (becomesReady ch s).port = s.port := by unfold becomesReady; dsimp only; split <;> simp

@[simp] theorem becomesReady_isLive (ch : Channel) (s : State) :
    isLive (becomesReady ch s) = isLive s := by simp [isLive]

/-! ### `adopt` -/

@[simp] theorem adopt_pending (c : Setup) (ch : Channel) (f : GroupFrame) (k : Option Capture) (id : IntervalId) (e : Nat) (s : State) :
    (adopt c ch f k id e s).pending = s.pending := by simp [adopt]

@[simp] theorem adopt_draws (c : Setup) (ch : Channel) (f : GroupFrame) (k : Option Capture) (id : IntervalId) (e : Nat) (s : State) :
    (adopt c ch f k id e s).draws = s.draws := by simp [adopt]

@[simp] theorem adopt_config (c : Setup) (ch : Channel) (f : GroupFrame) (k : Option Capture) (id : IntervalId) (e : Nat) (s : State) :
    (adopt c ch f k id e s).config = s.config := by simp [adopt]

@[simp] theorem adopt_sp (c : Setup) (ch : Channel) (f : GroupFrame) (k : Option Capture) (id : IntervalId) (e : Nat) (s : State) :
    (adopt c ch f k id e s).sp = s.sp := by simp [adopt]

@[simp] theorem adopt_port (c : Setup) (ch : Channel) (f : GroupFrame) (k : Option Capture) (id : IntervalId) (e : Nat) (s : State) :
    (adopt c ch f k id e s).port = s.port := by simp [adopt]

/-! ### `offerTiming` -/

@[simp] theorem offerTiming_pending (c : Setup) (ch : Channel) (f : GroupFrame) (s : State) :
    (offerTiming c ch f s).pending = s.pending := by unfold offerTiming; (repeat' split) <;> simp

@[simp] theorem offerTiming_draws (c : Setup) (ch : Channel) (f : GroupFrame) (s : State) :
    (offerTiming c ch f s).draws = s.draws := by unfold offerTiming; (repeat' split) <;> simp

@[simp] theorem offerTiming_config (c : Setup) (ch : Channel) (f : GroupFrame) (s : State) :
    (offerTiming c ch f s).config = s.config := by unfold offerTiming; (repeat' split) <;> simp

@[simp] theorem offerTiming_sp (c : Setup) (ch : Channel) (f : GroupFrame) (s : State) :
    (offerTiming c ch f s).sp = s.sp := by unfold offerTiming; (repeat' split) <;> simp

@[simp] theorem offerTiming_port (c : Setup) (ch : Channel) (f : GroupFrame) (s : State) :
    (offerTiming c ch f s).port = s.port := by unfold offerTiming; (repeat' split) <;> simp

/-! ### `passOn` -/

@[simp] theorem passOn_pending (c : Setup) (ch : Channel) (f : GroupFrame) (s : State) :
    (passOn c ch f s).pending = s.pending := by unfold passOn; split <;> simp

@[simp] theorem passOn_draws (c : Setup) (ch : Channel) (f : GroupFrame) (s : State) :
    (passOn c ch f s).draws = s.draws := by unfold passOn; split <;> simp

@[simp] theorem passOn_config (c : Setup) (ch : Channel) (f : GroupFrame) (s : State) :
    (passOn c ch f s).config = s.config := by unfold passOn; split <;> simp

@[simp] theorem passOn_sp (c : Setup) (ch : Channel) (f : GroupFrame) (s : State) :
    (passOn c ch f s).sp = s.sp := by unfold passOn; split <;> simp

@[simp] theorem passOn_port (c : Setup) (ch : Channel) (f : GroupFrame) (s : State) :
    (passOn c ch f s).port = s.port := by unfold passOn; split <;> simp

/-! ### `acceptFrame` -/

@[simp] theorem acceptFrame_pending (c : Setup) (ch : Channel) (f : GroupFrame) (s : State) :
    (acceptFrame c ch f s).pending = s.pending := by simp [acceptFrame]

@[simp] theorem acceptFrame_draws (c : Setup) (ch : Channel) (f : GroupFrame) (s : State) :
    (acceptFrame c ch f s).draws = s.draws := by simp [acceptFrame]

@[simp] theorem acceptFrame_config (c : Setup) (ch : Channel) (f : GroupFrame) (s : State) :
    (acceptFrame c ch f s).config = s.config := by simp [acceptFrame]

@[simp] theorem acceptFrame_sp (c : Setup) (ch : Channel) (f : GroupFrame) (s : State) :
    (acceptFrame c ch f s).sp = s.sp := by simp [acceptFrame]

@[simp] theorem acceptFrame_port (c : Setup) (ch : Channel) (f : GroupFrame) (s : State) :
    (acceptFrame c ch f s).port = s.port := by simp [acceptFrame]

/-! ### `duplicateStationHeard` -/

@[simp] theorem duplicateStationHeard_pending (s : State) :
    (duplicateStationHeard s).pending = s.pending := rfl

@[simp] theorem duplicateStationHeard_draws (s : State) :
    (duplicateStationHeard s).draws = s.draws := rfl

@[simp] theorem duplicateStationHeard_config (s : State) :
    (duplicateStationHeard s).config = s.config := rfl

@[simp] theorem duplicateStationHeard_supply (s : State) :
    (duplicateStationHeard s).supply = s.supply := rfl

@[simp] theorem duplicateStationHeard_sp (s : State) :
    (duplicateStationHeard s).sp = s.sp := rfl

@[simp] theorem duplicateStationHeard_ne (s : State) :
    (duplicateStationHeard s).ne = s.ne := rfl

@[simp] theorem duplicateStationHeard_it (s : State) :
    (duplicateStationHeard s).it = s.it := rfl

@[simp] theorem duplicateStationHeard_rb (s : State) :
    (duplicateStationHeard s).rb = s.rb := rfl

@[simp] theorem duplicateStationHeard_su (s : State) :
    (duplicateStationHeard s).su = s.su := rfl

@[simp] theorem duplicateStationHeard_el (s : State) :
    (duplicateStationHeard s).el = s.el := rfl

@[simp] theorem duplicateStationHeard_store (s : State) :
    (duplicateStationHeard s).store = s.store := rfl

@[simp] theorem duplicateStationHeard_port (s : State) :
    (duplicateStationHeard s).port = s.port := rfl

@[simp] theorem duplicateStationHeard_isLive (s : State) :
    isLive (duplicateStationHeard s) = isLive s := by simp [isLive]

/-! ### `judgeFrame` -/

@[simp] theorem judgeFrame_pending (c : Setup) (ch : Channel) (bytes : List Byte) (s : State) :
    (judgeFrame c ch bytes s).pending = s.pending := by unfold judgeFrame; split <;> simp

@[simp] theorem judgeFrame_draws (c : Setup) (ch : Channel) (bytes : List Byte) (s : State) :
    (judgeFrame c ch bytes s).draws = s.draws := by unfold judgeFrame; split <;> simp

@[simp] theorem judgeFrame_config (c : Setup) (ch : Channel) (bytes : List Byte) (s : State) :
    (judgeFrame c ch bytes s).config = s.config := by unfold judgeFrame; split <;> simp

@[simp] theorem judgeFrame_sp (c : Setup) (ch : Channel) (bytes : List Byte) (s : State) :
    (judgeFrame c ch bytes s).sp = s.sp := by unfold judgeFrame; split <;> simp

@[simp] theorem judgeFrame_port (c : Setup) (ch : Channel) (bytes : List Byte) (s : State) :
    (judgeFrame c ch bytes s).port = s.port := by unfold judgeFrame; split <;> simp

/-! ### `frameCompletes` -/

@[simp] theorem frameCompletes_pending (ch : Channel) (bytes : List Byte) (s : State) :
    (frameCompletes ch bytes s).pending = s.pending := by unfold frameCompletes; (repeat' split) <;> simp

@[simp] theorem frameCompletes_draws (ch : Channel) (bytes : List Byte) (s : State) :
    (frameCompletes ch bytes s).draws = s.draws := by unfold frameCompletes; (repeat' split) <;> simp

@[simp] theorem frameCompletes_config (ch : Channel) (bytes : List Byte) (s : State) :
    (frameCompletes ch bytes s).config = s.config := by unfold frameCompletes; (repeat' split) <;> simp

@[simp] theorem frameCompletes_sp (ch : Channel) (bytes : List Byte) (s : State) :
    (frameCompletes ch bytes s).sp = s.sp := by unfold frameCompletes; (repeat' split) <;> simp

@[simp] theorem frameCompletes_port (ch : Channel) (bytes : List Byte) (s : State) :
    (frameCompletes ch bytes s).port = s.port := by unfold frameCompletes; (repeat' split) <;> simp

/-! ### `carrierChanges` -/

@[simp] theorem carrierChanges_pending (ch : Channel) (b : Bool) (s : State) :
    (carrierChanges ch b s).pending = s.pending := by unfold carrierChanges; split <;> rfl

@[simp] theorem carrierChanges_draws (ch : Channel) (b : Bool) (s : State) :
    (carrierChanges ch b s).draws = s.draws := by unfold carrierChanges; split <;> rfl

@[simp] theorem carrierChanges_config (ch : Channel) (b : Bool) (s : State) :
    (carrierChanges ch b s).config = s.config := by unfold carrierChanges; split <;> rfl

@[simp] theorem carrierChanges_supply (ch : Channel) (b : Bool) (s : State) :
    (carrierChanges ch b s).supply = s.supply := by unfold carrierChanges; split <;> rfl

@[simp] theorem carrierChanges_sp (ch : Channel) (b : Bool) (s : State) :
    (carrierChanges ch b s).sp = s.sp := by unfold carrierChanges; split <;> rfl

@[simp] theorem carrierChanges_ne (ch : Channel) (b : Bool) (s : State) :
    (carrierChanges ch b s).ne = s.ne := by unfold carrierChanges; split <;> rfl

@[simp] theorem carrierChanges_it (ch : Channel) (b : Bool) (s : State) :
    (carrierChanges ch b s).it = s.it := by unfold carrierChanges; split <;> rfl

@[simp] theorem carrierChanges_rb (ch : Channel) (b : Bool) (s : State) :
    (carrierChanges ch b s).rb = s.rb := by unfold carrierChanges; split <;> rfl

@[simp] theorem carrierChanges_su (ch : Channel) (b : Bool) (s : State) :
    (carrierChanges ch b s).su = s.su := by unfold carrierChanges; split <;> rfl

@[simp] theorem carrierChanges_el (ch : Channel) (b : Bool) (s : State) :
    (carrierChanges ch b s).el = s.el := by unfold carrierChanges; split <;> rfl

@[simp] theorem carrierChanges_store (ch : Channel) (b : Bool) (s : State) :
    (carrierChanges ch b s).store = s.store := by unfold carrierChanges; split <;> rfl

@[simp] theorem carrierChanges_alerts (ch : Channel) (b : Bool) (s : State) :
    (carrierChanges ch b s).alerts = s.alerts := by unfold carrierChanges; split <;> rfl

@[simp] theorem carrierChanges_port (ch : Channel) (b : Bool) (s : State) :
    (carrierChanges ch b s).port = s.port := by unfold carrierChanges; split <;> rfl

@[simp] theorem carrierChanges_isLive (ch : Channel) (b : Bool) (s : State) :
    isLive (carrierChanges ch b s) = isLive s := by simp [isLive]

/-! ### `backoffEnds` -/

@[simp] theorem backoffEnds_pending (ch : Channel) (s : State) :
    (backoffEnds ch s).pending = s.pending := by unfold backoffEnds; dsimp only; (repeat' split) <;> rfl

@[simp] theorem backoffEnds_draws (ch : Channel) (s : State) :
    (backoffEnds ch s).draws = s.draws := by unfold backoffEnds; dsimp only; (repeat' split) <;> rfl

@[simp] theorem backoffEnds_config (ch : Channel) (s : State) :
    (backoffEnds ch s).config = s.config := by unfold backoffEnds; dsimp only; (repeat' split) <;> rfl

@[simp] theorem backoffEnds_supply (ch : Channel) (s : State) :
    (backoffEnds ch s).supply = s.supply := by unfold backoffEnds; dsimp only; (repeat' split) <;> rfl

@[simp] theorem backoffEnds_sp (ch : Channel) (s : State) :
    (backoffEnds ch s).sp = s.sp := by unfold backoffEnds; dsimp only; (repeat' split) <;> rfl

@[simp] theorem backoffEnds_ne (ch : Channel) (s : State) :
    (backoffEnds ch s).ne = s.ne := by unfold backoffEnds; dsimp only; (repeat' split) <;> rfl

@[simp] theorem backoffEnds_it (ch : Channel) (s : State) :
    (backoffEnds ch s).it = s.it := by unfold backoffEnds; dsimp only; (repeat' split) <;> rfl

@[simp] theorem backoffEnds_rb (ch : Channel) (s : State) :
    (backoffEnds ch s).rb = s.rb := by unfold backoffEnds; dsimp only; (repeat' split) <;> rfl

@[simp] theorem backoffEnds_su (ch : Channel) (s : State) :
    (backoffEnds ch s).su = s.su := by unfold backoffEnds; dsimp only; (repeat' split) <;> rfl

@[simp] theorem backoffEnds_el (ch : Channel) (s : State) :
    (backoffEnds ch s).el = s.el := by unfold backoffEnds; dsimp only; (repeat' split) <;> rfl

@[simp] theorem backoffEnds_store (ch : Channel) (s : State) :
    (backoffEnds ch s).store = s.store := by unfold backoffEnds; dsimp only; (repeat' split) <;> rfl

@[simp] theorem backoffEnds_alerts (ch : Channel) (s : State) :
    (backoffEnds ch s).alerts = s.alerts := by unfold backoffEnds; dsimp only; (repeat' split) <;> rfl

@[simp] theorem backoffEnds_port (ch : Channel) (s : State) :
    (backoffEnds ch s).port = s.port := by unfold backoffEnds; dsimp only; (repeat' split) <;> rfl

@[simp] theorem backoffEnds_isLive (ch : Channel) (s : State) :
    isLive (backoffEnds ch s) = isLive s := by simp [isLive]

/-! ### `gapCompletes` -/

@[simp] theorem gapCompletes_pending (ch : Channel) (s : State) :
    (gapCompletes ch s).pending = s.pending := by unfold gapCompletes; dsimp only; (repeat' split) <;> simp

@[simp] theorem gapCompletes_config (ch : Channel) (s : State) :
    (gapCompletes ch s).config = s.config := by unfold gapCompletes; dsimp only; (repeat' split) <;> simp

@[simp] theorem gapCompletes_supply (ch : Channel) (s : State) :
    (gapCompletes ch s).supply = s.supply := by unfold gapCompletes; dsimp only; (repeat' split) <;> simp

@[simp] theorem gapCompletes_sp (ch : Channel) (s : State) :
    (gapCompletes ch s).sp = s.sp := by unfold gapCompletes; dsimp only; (repeat' split) <;> simp

@[simp] theorem gapCompletes_ne (ch : Channel) (s : State) :
    (gapCompletes ch s).ne = s.ne := by unfold gapCompletes; dsimp only; (repeat' split) <;> simp

@[simp] theorem gapCompletes_it (ch : Channel) (s : State) :
    (gapCompletes ch s).it = s.it := by unfold gapCompletes; dsimp only; (repeat' split) <;> simp

@[simp] theorem gapCompletes_rb (ch : Channel) (s : State) :
    (gapCompletes ch s).rb = s.rb := by unfold gapCompletes; dsimp only; (repeat' split) <;> simp

@[simp] theorem gapCompletes_su (ch : Channel) (s : State) :
    (gapCompletes ch s).su = s.su := by unfold gapCompletes; dsimp only; (repeat' split) <;> simp

@[simp] theorem gapCompletes_el (ch : Channel) (s : State) :
    (gapCompletes ch s).el = s.el := by unfold gapCompletes; dsimp only; (repeat' split) <;> simp

@[simp] theorem gapCompletes_store (ch : Channel) (s : State) :
    (gapCompletes ch s).store = s.store := by unfold gapCompletes; dsimp only; (repeat' split) <;> simp

@[simp] theorem gapCompletes_alerts (ch : Channel) (s : State) :
    (gapCompletes ch s).alerts = s.alerts := by unfold gapCompletes; dsimp only; (repeat' split) <;> simp

@[simp] theorem gapCompletes_port (ch : Channel) (s : State) :
    (gapCompletes ch s).port = s.port := by unfold gapCompletes; dsimp only; (repeat' split) <;> simp

@[simp] theorem gapCompletes_isLive (ch : Channel) (s : State) :
    isLive (gapCompletes ch s) = isLive s := by simp [isLive]

/-! ### `echoArrives` -/

@[simp] theorem echoArrives_pending (ch : Channel) (b : Byte) (x : Bool) (s : State) :
    (echoArrives ch b x s).pending = s.pending := by unfold echoArrives; dsimp only; (repeat' split) <;> rfl

@[simp] theorem echoArrives_draws (ch : Channel) (b : Byte) (x : Bool) (s : State) :
    (echoArrives ch b x s).draws = s.draws := by unfold echoArrives; dsimp only; (repeat' split) <;> rfl

@[simp] theorem echoArrives_config (ch : Channel) (b : Byte) (x : Bool) (s : State) :
    (echoArrives ch b x s).config = s.config := by unfold echoArrives; dsimp only; (repeat' split) <;> rfl

@[simp] theorem echoArrives_supply (ch : Channel) (b : Byte) (x : Bool) (s : State) :
    (echoArrives ch b x s).supply = s.supply := by unfold echoArrives; dsimp only; (repeat' split) <;> rfl

@[simp] theorem echoArrives_sp (ch : Channel) (b : Byte) (x : Bool) (s : State) :
    (echoArrives ch b x s).sp = s.sp := by unfold echoArrives; dsimp only; (repeat' split) <;> rfl

@[simp] theorem echoArrives_ne (ch : Channel) (b : Byte) (x : Bool) (s : State) :
    (echoArrives ch b x s).ne = s.ne := by unfold echoArrives; dsimp only; (repeat' split) <;> rfl

@[simp] theorem echoArrives_it (ch : Channel) (b : Byte) (x : Bool) (s : State) :
    (echoArrives ch b x s).it = s.it := by unfold echoArrives; dsimp only; (repeat' split) <;> rfl

@[simp] theorem echoArrives_rb (ch : Channel) (b : Byte) (x : Bool) (s : State) :
    (echoArrives ch b x s).rb = s.rb := by unfold echoArrives; dsimp only; (repeat' split) <;> rfl

@[simp] theorem echoArrives_su (ch : Channel) (b : Byte) (x : Bool) (s : State) :
    (echoArrives ch b x s).su = s.su := by unfold echoArrives; dsimp only; (repeat' split) <;> rfl

@[simp] theorem echoArrives_el (ch : Channel) (b : Byte) (x : Bool) (s : State) :
    (echoArrives ch b x s).el = s.el := by unfold echoArrives; dsimp only; (repeat' split) <;> rfl

@[simp] theorem echoArrives_store (ch : Channel) (b : Byte) (x : Bool) (s : State) :
    (echoArrives ch b x s).store = s.store := by unfold echoArrives; dsimp only; (repeat' split) <;> rfl

@[simp] theorem echoArrives_alerts (ch : Channel) (b : Byte) (x : Bool) (s : State) :
    (echoArrives ch b x s).alerts = s.alerts := by unfold echoArrives; dsimp only; (repeat' split) <;> rfl

@[simp] theorem echoArrives_port (ch : Channel) (b : Byte) (x : Bool) (s : State) :
    (echoArrives ch b x s).port = s.port := by unfold echoArrives; dsimp only; (repeat' split) <;> rfl

@[simp] theorem echoArrives_isLive (ch : Channel) (b : Byte) (x : Bool) (s : State) :
    isLive (echoArrives ch b x s) = isLive s := by simp [isLive]

/-! ### `echoMissing` -/

@[simp] theorem echoMissing_pending (ch : Channel) (s : State) :
    (echoMissing ch s).pending = s.pending := by unfold echoMissing; dsimp only; split <;> rfl

@[simp] theorem echoMissing_draws (ch : Channel) (s : State) :
    (echoMissing ch s).draws = s.draws := by unfold echoMissing; dsimp only; split <;> rfl

@[simp] theorem echoMissing_config (ch : Channel) (s : State) :
    (echoMissing ch s).config = s.config := by unfold echoMissing; dsimp only; split <;> rfl

@[simp] theorem echoMissing_supply (ch : Channel) (s : State) :
    (echoMissing ch s).supply = s.supply := by unfold echoMissing; dsimp only; split <;> rfl

@[simp] theorem echoMissing_sp (ch : Channel) (s : State) :
    (echoMissing ch s).sp = s.sp := by unfold echoMissing; dsimp only; split <;> rfl

@[simp] theorem echoMissing_ne (ch : Channel) (s : State) :
    (echoMissing ch s).ne = s.ne := by unfold echoMissing; dsimp only; split <;> rfl

@[simp] theorem echoMissing_it (ch : Channel) (s : State) :
    (echoMissing ch s).it = s.it := by unfold echoMissing; dsimp only; split <;> rfl

@[simp] theorem echoMissing_rb (ch : Channel) (s : State) :
    (echoMissing ch s).rb = s.rb := by unfold echoMissing; dsimp only; split <;> rfl

@[simp] theorem echoMissing_su (ch : Channel) (s : State) :
    (echoMissing ch s).su = s.su := by unfold echoMissing; dsimp only; split <;> rfl

@[simp] theorem echoMissing_el (ch : Channel) (s : State) :
    (echoMissing ch s).el = s.el := by unfold echoMissing; dsimp only; split <;> rfl

@[simp] theorem echoMissing_store (ch : Channel) (s : State) :
    (echoMissing ch s).store = s.store := by unfold echoMissing; dsimp only; split <;> rfl

@[simp] theorem echoMissing_port (ch : Channel) (s : State) :
    (echoMissing ch s).port = s.port := by unfold echoMissing; dsimp only; split <;> rfl

@[simp] theorem echoMissing_isLive (ch : Channel) (s : State) :
    isLive (echoMissing ch s) = isLive s := by simp [isLive]

/-! ### `guardTrips` -/

@[simp] theorem guardTrips_pending (ch : Channel) (s : State) :
    (guardTrips ch s).pending = s.pending := by unfold guardTrips; dsimp only; split <;> rfl

@[simp] theorem guardTrips_draws (ch : Channel) (s : State) :
    (guardTrips ch s).draws = s.draws := by unfold guardTrips; dsimp only; split <;> rfl

@[simp] theorem guardTrips_config (ch : Channel) (s : State) :
    (guardTrips ch s).config = s.config := by unfold guardTrips; dsimp only; split <;> rfl

@[simp] theorem guardTrips_supply (ch : Channel) (s : State) :
    (guardTrips ch s).supply = s.supply := by unfold guardTrips; dsimp only; split <;> rfl

@[simp] theorem guardTrips_sp (ch : Channel) (s : State) :
    (guardTrips ch s).sp = s.sp := by unfold guardTrips; dsimp only; split <;> rfl

@[simp] theorem guardTrips_ne (ch : Channel) (s : State) :
    (guardTrips ch s).ne = s.ne := by unfold guardTrips; dsimp only; split <;> rfl

@[simp] theorem guardTrips_it (ch : Channel) (s : State) :
    (guardTrips ch s).it = s.it := by unfold guardTrips; dsimp only; split <;> rfl

@[simp] theorem guardTrips_rb (ch : Channel) (s : State) :
    (guardTrips ch s).rb = s.rb := by unfold guardTrips; dsimp only; split <;> rfl

@[simp] theorem guardTrips_su (ch : Channel) (s : State) :
    (guardTrips ch s).su = s.su := by unfold guardTrips; dsimp only; split <;> rfl

@[simp] theorem guardTrips_el (ch : Channel) (s : State) :
    (guardTrips ch s).el = s.el := by unfold guardTrips; dsimp only; split <;> rfl

@[simp] theorem guardTrips_store (ch : Channel) (s : State) :
    (guardTrips ch s).store = s.store := by unfold guardTrips; dsimp only; split <;> rfl

@[simp] theorem guardTrips_port (ch : Channel) (s : State) :
    (guardTrips ch s).port = s.port := by unfold guardTrips; dsimp only; split <;> rfl

@[simp] theorem guardTrips_isLive (ch : Channel) (s : State) :
    isLive (guardTrips ch s) = isLive s := by simp [isLive]

/-! ### `cutoffSampled` -/

@[simp] theorem cutoffSampled_pending (b : Bool) (s : State) :
    (cutoffSampled b s).pending = s.pending := by unfold cutoffSampled; rfl

@[simp] theorem cutoffSampled_draws (b : Bool) (s : State) :
    (cutoffSampled b s).draws = s.draws := by unfold cutoffSampled; rfl

@[simp] theorem cutoffSampled_config (b : Bool) (s : State) :
    (cutoffSampled b s).config = s.config := by unfold cutoffSampled; rfl

@[simp] theorem cutoffSampled_supply (b : Bool) (s : State) :
    (cutoffSampled b s).supply = s.supply := by unfold cutoffSampled; rfl

@[simp] theorem cutoffSampled_sp (b : Bool) (s : State) :
    (cutoffSampled b s).sp = s.sp := by unfold cutoffSampled; rfl

@[simp] theorem cutoffSampled_ne (b : Bool) (s : State) :
    (cutoffSampled b s).ne = s.ne := by unfold cutoffSampled; rfl

@[simp] theorem cutoffSampled_it (b : Bool) (s : State) :
    (cutoffSampled b s).it = s.it := by unfold cutoffSampled; rfl

@[simp] theorem cutoffSampled_rb (b : Bool) (s : State) :
    (cutoffSampled b s).rb = s.rb := by unfold cutoffSampled; rfl

@[simp] theorem cutoffSampled_line (b : Bool) (s : State) :
    (cutoffSampled b s).line = s.line := by unfold cutoffSampled; rfl

@[simp] theorem cutoffSampled_su (b : Bool) (s : State) :
    (cutoffSampled b s).su = s.su := by unfold cutoffSampled; rfl

@[simp] theorem cutoffSampled_store (b : Bool) (s : State) :
    (cutoffSampled b s).store = s.store := by unfold cutoffSampled; rfl

@[simp] theorem cutoffSampled_port (b : Bool) (s : State) :
    (cutoffSampled b s).port = s.port := by unfold cutoffSampled; rfl

@[simp] theorem cutoffSampled_isLive (b : Bool) (s : State) :
    isLive (cutoffSampled b s) = isLive s := by simp [isLive]

/-! ### `pfwActive` -/

@[simp] theorem pfwActive_pending (b : Bool) (s : State) :
    (pfwActive b s).pending = s.pending := by unfold pfwActive; split <;> simp

@[simp] theorem pfwActive_draws (b : Bool) (s : State) :
    (pfwActive b s).draws = s.draws := by unfold pfwActive; split <;> simp

@[simp] theorem pfwActive_config (b : Bool) (s : State) :
    (pfwActive b s).config = s.config := by unfold pfwActive; split <;> simp

@[simp] theorem pfwActive_port (b : Bool) (s : State) :
    (pfwActive b s).port = s.port := by unfold pfwActive; split <;> simp

/-! ### `acceptConfig` -/

@[simp] theorem acceptConfig_pending (c : Setup) (o : Option Totals) (s : State) :
    (acceptConfig c o s).pending = s.pending := rfl

@[simp] theorem acceptConfig_draws (c : Setup) (o : Option Totals) (s : State) :
    (acceptConfig c o s).draws = s.draws := rfl

@[simp] theorem acceptConfig_sp (c : Setup) (o : Option Totals) (s : State) :
    (acceptConfig c o s).sp = s.sp := rfl

@[simp] theorem acceptConfig_store (c : Setup) (o : Option Totals) (s : State) :
    (acceptConfig c o s).store = s.store := rfl

@[simp] theorem acceptConfig_alerts (c : Setup) (o : Option Totals) (s : State) :
    (acceptConfig c o s).alerts = s.alerts := rfl

@[simp] theorem acceptConfig_port (c : Setup) (o : Option Totals) (s : State) :
    (acceptConfig c o s).port = s.port := rfl

/-! ### `leaveStart` -/

@[simp] theorem leaveStart_pending (c : Setup) (p : Option DayPosition) (s : State) :
    (leaveStart c p s).pending = s.pending := by unfold leaveStart; split <;> simp

@[simp] theorem leaveStart_draws (c : Setup) (p : Option DayPosition) (s : State) :
    (leaveStart c p s).draws = s.draws := by unfold leaveStart; split <;> simp

@[simp] theorem leaveStart_config (c : Setup) (p : Option DayPosition) (s : State) :
    (leaveStart c p s).config = s.config := by unfold leaveStart; split <;> simp

@[simp] theorem leaveStart_ne (c : Setup) (p : Option DayPosition) (s : State) :
    (leaveStart c p s).ne = s.ne := by unfold leaveStart; split <;> simp

@[simp] theorem leaveStart_su (c : Setup) (p : Option DayPosition) (s : State) :
    (leaveStart c p s).su = s.su := by unfold leaveStart; split <;> simp

@[simp] theorem leaveStart_store (c : Setup) (p : Option DayPosition) (s : State) :
    (leaveStart c p s).store = s.store := by unfold leaveStart; split <;> simp

@[simp] theorem leaveStart_alerts (c : Setup) (p : Option DayPosition) (s : State) :
    (leaveStart c p s).alerts = s.alerts := by unfold leaveStart; split <;> simp

@[simp] theorem leaveStart_port (c : Setup) (p : Option DayPosition) (s : State) :
    (leaveStart c p s).port = s.port := by unfold leaveStart; split <;> simp

/-! ### `configAccepted` -/

@[simp] theorem configAccepted_pending (b : List Byte) (s : State) :
    (configAccepted b s).pending = s.pending := by simp [configAccepted]

@[simp] theorem configAccepted_draws (b : List Byte) (s : State) :
    (configAccepted b s).draws = s.draws := by simp [configAccepted]

@[simp] theorem configAccepted_store (b : List Byte) (s : State) :
    (configAccepted b s).store = s.store := by simp [configAccepted]

@[simp] theorem configAccepted_alerts (b : List Byte) (s : State) :
    (configAccepted b s).alerts = s.alerts := by simp [configAccepted]

@[simp] theorem configAccepted_port (b : List Byte) (s : State) :
    (configAccepted b s).port = s.port := by simp [configAccepted]

/-! ### `loadConfigActs` -/

@[simp] theorem loadConfigActs_pending (b : List Byte) (s : State) :
    (loadConfigActs b s).pending = s.pending := by unfold loadConfigActs; dsimp only; (repeat' split) <;> simp

@[simp] theorem loadConfigActs_draws (b : List Byte) (s : State) :
    (loadConfigActs b s).draws = s.draws := by unfold loadConfigActs; dsimp only; (repeat' split) <;> simp

/-! ### `csnRises` -/

@[simp] theorem csnRises_pending (s : State) :
    (csnRises s).pending = s.pending := rfl

@[simp] theorem csnRises_draws (s : State) :
    (csnRises s).draws = s.draws := rfl

@[simp] theorem csnRises_config (s : State) :
    (csnRises s).config = s.config := rfl

@[simp] theorem csnRises_supply (s : State) :
    (csnRises s).supply = s.supply := rfl

@[simp] theorem csnRises_sp (s : State) :
    (csnRises s).sp = s.sp := rfl

@[simp] theorem csnRises_ne (s : State) :
    (csnRises s).ne = s.ne := rfl

@[simp] theorem csnRises_it (s : State) :
    (csnRises s).it = s.it := rfl

@[simp] theorem csnRises_rb (s : State) :
    (csnRises s).rb = s.rb := rfl

@[simp] theorem csnRises_line (s : State) :
    (csnRises s).line = s.line := rfl

@[simp] theorem csnRises_su (s : State) :
    (csnRises s).su = s.su := rfl

@[simp] theorem csnRises_el (s : State) :
    (csnRises s).el = s.el := rfl

@[simp] theorem csnRises_store (s : State) :
    (csnRises s).store = s.store := rfl

@[simp] theorem csnRises_alerts (s : State) :
    (csnRises s).alerts = s.alerts := rfl

@[simp] theorem csnRises_isLive (s : State) :
    isLive (csnRises s) = isLive s := by simp [isLive]

/-! ### `csnFalls` -/

@[simp] theorem csnFalls_pending (s : State) :
    (csnFalls s).pending = s.pending := rfl

@[simp] theorem csnFalls_draws (s : State) :
    (csnFalls s).draws = s.draws := rfl

@[simp] theorem csnFalls_config (s : State) :
    (csnFalls s).config = s.config := rfl

@[simp] theorem csnFalls_supply (s : State) :
    (csnFalls s).supply = s.supply := rfl

@[simp] theorem csnFalls_sp (s : State) :
    (csnFalls s).sp = s.sp := rfl

@[simp] theorem csnFalls_ne (s : State) :
    (csnFalls s).ne = s.ne := rfl

@[simp] theorem csnFalls_it (s : State) :
    (csnFalls s).it = s.it := rfl

@[simp] theorem csnFalls_rb (s : State) :
    (csnFalls s).rb = s.rb := rfl

@[simp] theorem csnFalls_line (s : State) :
    (csnFalls s).line = s.line := rfl

@[simp] theorem csnFalls_su (s : State) :
    (csnFalls s).su = s.su := rfl

@[simp] theorem csnFalls_el (s : State) :
    (csnFalls s).el = s.el := rfl

@[simp] theorem csnFalls_store (s : State) :
    (csnFalls s).store = s.store := rfl

@[simp] theorem csnFalls_alerts (s : State) :
    (csnFalls s).alerts = s.alerts := rfl

@[simp] theorem csnFalls_isLive (s : State) :
    isLive (csnFalls s) = isLive s := by simp [isLive]

/-! ### `readStatusActs` -/

@[simp] theorem readStatusActs_pending (s : State) :
    (readStatusActs s).pending = s.pending := by simp [readStatusActs]

@[simp] theorem readStatusActs_draws (s : State) :
    (readStatusActs s).draws = s.draws := by simp [readStatusActs]

@[simp] theorem readStatusActs_config (s : State) :
    (readStatusActs s).config = s.config := by simp [readStatusActs]

@[simp] theorem readStatusActs_supply (s : State) :
    (readStatusActs s).supply = s.supply := by simp [readStatusActs]

@[simp] theorem readStatusActs_sp (s : State) :
    (readStatusActs s).sp = s.sp := by simp [readStatusActs]

@[simp] theorem readStatusActs_ne (s : State) :
    (readStatusActs s).ne = s.ne := by simp [readStatusActs]

@[simp] theorem readStatusActs_it (s : State) :
    (readStatusActs s).it = s.it := by simp [readStatusActs]

@[simp] theorem readStatusActs_rb (s : State) :
    (readStatusActs s).rb = s.rb := by simp [readStatusActs]

@[simp] theorem readStatusActs_line (s : State) :
    (readStatusActs s).line = s.line := by simp [readStatusActs]

@[simp] theorem readStatusActs_su (s : State) :
    (readStatusActs s).su = s.su := by simp [readStatusActs]

@[simp] theorem readStatusActs_el (s : State) :
    (readStatusActs s).el = s.el := by simp [readStatusActs]

@[simp] theorem readStatusActs_store (s : State) :
    (readStatusActs s).store = s.store := by simp [readStatusActs]

@[simp] theorem readStatusActs_alerts (s : State) :
    (readStatusActs s).alerts = s.alerts := by simp [readStatusActs]

@[simp] theorem readStatusActs_isLive (s : State) :
    isLive (readStatusActs s) = isLive s := by simp [isLive]

/-! ### `readTotalsActs` -/

@[simp] theorem readTotalsActs_pending (s : State) :
    (readTotalsActs s).pending = s.pending := by simp [readTotalsActs]

@[simp] theorem readTotalsActs_draws (s : State) :
    (readTotalsActs s).draws = s.draws := by simp [readTotalsActs]

@[simp] theorem readTotalsActs_config (s : State) :
    (readTotalsActs s).config = s.config := by simp [readTotalsActs]

@[simp] theorem readTotalsActs_supply (s : State) :
    (readTotalsActs s).supply = s.supply := by simp [readTotalsActs]

@[simp] theorem readTotalsActs_sp (s : State) :
    (readTotalsActs s).sp = s.sp := by simp [readTotalsActs]

@[simp] theorem readTotalsActs_ne (s : State) :
    (readTotalsActs s).ne = s.ne := by simp [readTotalsActs]

@[simp] theorem readTotalsActs_it (s : State) :
    (readTotalsActs s).it = s.it := by simp [readTotalsActs]

@[simp] theorem readTotalsActs_rb (s : State) :
    (readTotalsActs s).rb = s.rb := by simp [readTotalsActs]

@[simp] theorem readTotalsActs_line (s : State) :
    (readTotalsActs s).line = s.line := by simp [readTotalsActs]

@[simp] theorem readTotalsActs_su (s : State) :
    (readTotalsActs s).su = s.su := by simp [readTotalsActs]

@[simp] theorem readTotalsActs_el (s : State) :
    (readTotalsActs s).el = s.el := by simp [readTotalsActs]

@[simp] theorem readTotalsActs_store (s : State) :
    (readTotalsActs s).store = s.store := by simp [readTotalsActs]

@[simp] theorem readTotalsActs_alerts (s : State) :
    (readTotalsActs s).alerts = s.alerts := by simp [readTotalsActs]

@[simp] theorem readTotalsActs_isLive (s : State) :
    isLive (readTotalsActs s) = isLive s := by simp [isLive]

/-! ### `readRecordActs` -/

@[simp] theorem readRecordActs_pending (p q : Byte) (s : State) :
    (readRecordActs p q s).pending = s.pending := by unfold readRecordActs; dsimp only; (repeat' split) <;> simp

@[simp] theorem readRecordActs_draws (p q : Byte) (s : State) :
    (readRecordActs p q s).draws = s.draws := by unfold readRecordActs; dsimp only; (repeat' split) <;> simp

@[simp] theorem readRecordActs_config (p q : Byte) (s : State) :
    (readRecordActs p q s).config = s.config := by unfold readRecordActs; dsimp only; (repeat' split) <;> simp

@[simp] theorem readRecordActs_supply (p q : Byte) (s : State) :
    (readRecordActs p q s).supply = s.supply := by unfold readRecordActs; dsimp only; (repeat' split) <;> simp

@[simp] theorem readRecordActs_sp (p q : Byte) (s : State) :
    (readRecordActs p q s).sp = s.sp := by unfold readRecordActs; dsimp only; (repeat' split) <;> simp

@[simp] theorem readRecordActs_ne (p q : Byte) (s : State) :
    (readRecordActs p q s).ne = s.ne := by unfold readRecordActs; dsimp only; (repeat' split) <;> simp

@[simp] theorem readRecordActs_it (p q : Byte) (s : State) :
    (readRecordActs p q s).it = s.it := by unfold readRecordActs; dsimp only; (repeat' split) <;> simp

@[simp] theorem readRecordActs_rb (p q : Byte) (s : State) :
    (readRecordActs p q s).rb = s.rb := by unfold readRecordActs; dsimp only; (repeat' split) <;> simp

@[simp] theorem readRecordActs_line (p q : Byte) (s : State) :
    (readRecordActs p q s).line = s.line := by unfold readRecordActs; dsimp only; (repeat' split) <;> simp

@[simp] theorem readRecordActs_su (p q : Byte) (s : State) :
    (readRecordActs p q s).su = s.su := by unfold readRecordActs; dsimp only; (repeat' split) <;> simp

@[simp] theorem readRecordActs_el (p q : Byte) (s : State) :
    (readRecordActs p q s).el = s.el := by unfold readRecordActs; dsimp only; (repeat' split) <;> simp

@[simp] theorem readRecordActs_store (p q : Byte) (s : State) :
    (readRecordActs p q s).store = s.store := by unfold readRecordActs; dsimp only; (repeat' split) <;> simp

@[simp] theorem readRecordActs_alerts (p q : Byte) (s : State) :
    (readRecordActs p q s).alerts = s.alerts := by unfold readRecordActs; dsimp only; (repeat' split) <;> simp

@[simp] theorem readRecordActs_isLive (p q : Byte) (s : State) :
    isLive (readRecordActs p q s) = isLive s := by simp [isLive]

/-! ### `readPeerActs` -/

@[simp] theorem readPeerActs_pending (p : Byte) (s : State) :
    (readPeerActs p s).pending = s.pending := by unfold readPeerActs; dsimp only; (repeat' split) <;> simp

@[simp] theorem readPeerActs_draws (p : Byte) (s : State) :
    (readPeerActs p s).draws = s.draws := by unfold readPeerActs; dsimp only; (repeat' split) <;> simp

@[simp] theorem readPeerActs_config (p : Byte) (s : State) :
    (readPeerActs p s).config = s.config := by unfold readPeerActs; dsimp only; (repeat' split) <;> simp

@[simp] theorem readPeerActs_supply (p : Byte) (s : State) :
    (readPeerActs p s).supply = s.supply := by unfold readPeerActs; dsimp only; (repeat' split) <;> simp

@[simp] theorem readPeerActs_sp (p : Byte) (s : State) :
    (readPeerActs p s).sp = s.sp := by unfold readPeerActs; dsimp only; (repeat' split) <;> simp

@[simp] theorem readPeerActs_ne (p : Byte) (s : State) :
    (readPeerActs p s).ne = s.ne := by unfold readPeerActs; dsimp only; (repeat' split) <;> simp

@[simp] theorem readPeerActs_it (p : Byte) (s : State) :
    (readPeerActs p s).it = s.it := by unfold readPeerActs; dsimp only; (repeat' split) <;> simp

@[simp] theorem readPeerActs_rb (p : Byte) (s : State) :
    (readPeerActs p s).rb = s.rb := by unfold readPeerActs; dsimp only; (repeat' split) <;> simp

@[simp] theorem readPeerActs_line (p : Byte) (s : State) :
    (readPeerActs p s).line = s.line := by unfold readPeerActs; dsimp only; (repeat' split) <;> simp

@[simp] theorem readPeerActs_su (p : Byte) (s : State) :
    (readPeerActs p s).su = s.su := by unfold readPeerActs; dsimp only; (repeat' split) <;> simp

@[simp] theorem readPeerActs_el (p : Byte) (s : State) :
    (readPeerActs p s).el = s.el := by unfold readPeerActs; dsimp only; (repeat' split) <;> simp

@[simp] theorem readPeerActs_store (p : Byte) (s : State) :
    (readPeerActs p s).store = s.store := by unfold readPeerActs; dsimp only; (repeat' split) <;> simp

@[simp] theorem readPeerActs_alerts (p : Byte) (s : State) :
    (readPeerActs p s).alerts = s.alerts := by unfold readPeerActs; dsimp only; (repeat' split) <;> simp

@[simp] theorem readPeerActs_isLive (p : Byte) (s : State) :
    isLive (readPeerActs p s) = isLive s := by simp [isLive]

/-! ### `releaseSealed` -/

@[simp] theorem releaseSealed_pending (n : Nat) (s : State) :
    (releaseSealed n s).pending = s.pending := by unfold releaseSealed; dsimp only; split <;> simp

@[simp] theorem releaseSealed_draws (n : Nat) (s : State) :
    (releaseSealed n s).draws = s.draws := by unfold releaseSealed; dsimp only; split <;> simp

@[simp] theorem releaseSealed_config (n : Nat) (s : State) :
    (releaseSealed n s).config = s.config := by unfold releaseSealed; dsimp only; split <;> simp

@[simp] theorem releaseSealed_supply (n : Nat) (s : State) :
    (releaseSealed n s).supply = s.supply := by unfold releaseSealed; dsimp only; split <;> simp

@[simp] theorem releaseSealed_sp (n : Nat) (s : State) :
    (releaseSealed n s).sp = s.sp := by unfold releaseSealed; dsimp only; split <;> simp

@[simp] theorem releaseSealed_ne (n : Nat) (s : State) :
    (releaseSealed n s).ne = s.ne := by unfold releaseSealed; dsimp only; split <;> simp

@[simp] theorem releaseSealed_it (n : Nat) (s : State) :
    (releaseSealed n s).it = s.it := by unfold releaseSealed; dsimp only; split <;> simp

@[simp] theorem releaseSealed_rb (n : Nat) (s : State) :
    (releaseSealed n s).rb = s.rb := by unfold releaseSealed; dsimp only; split <;> simp

@[simp] theorem releaseSealed_line (n : Nat) (s : State) :
    (releaseSealed n s).line = s.line := by unfold releaseSealed; dsimp only; split <;> simp

@[simp] theorem releaseSealed_su (n : Nat) (s : State) :
    (releaseSealed n s).su = s.su := by unfold releaseSealed; dsimp only; split <;> simp

@[simp] theorem releaseSealed_el (n : Nat) (s : State) :
    (releaseSealed n s).el = s.el := by unfold releaseSealed; dsimp only; split <;> simp

@[simp] theorem releaseSealed_port (n : Nat) (s : State) :
    (releaseSealed n s).port = s.port := by unfold releaseSealed; dsimp only; split <;> simp

@[simp] theorem releaseSealed_isLive (n : Nat) (s : State) :
    isLive (releaseSealed n s) = isLive s := by simp [isLive]

/-! ### `releasePageActs` -/

@[simp] theorem releasePageActs_pending (p : Byte) (s : State) :
    (releasePageActs p s).pending = s.pending := by unfold releasePageActs; dsimp only; (repeat' split) <;> simp

@[simp] theorem releasePageActs_draws (p : Byte) (s : State) :
    (releasePageActs p s).draws = s.draws := by unfold releasePageActs; dsimp only; (repeat' split) <;> simp

@[simp] theorem releasePageActs_config (p : Byte) (s : State) :
    (releasePageActs p s).config = s.config := by unfold releasePageActs; dsimp only; (repeat' split) <;> simp

@[simp] theorem releasePageActs_supply (p : Byte) (s : State) :
    (releasePageActs p s).supply = s.supply := by unfold releasePageActs; dsimp only; (repeat' split) <;> simp

@[simp] theorem releasePageActs_sp (p : Byte) (s : State) :
    (releasePageActs p s).sp = s.sp := by unfold releasePageActs; dsimp only; (repeat' split) <;> simp

@[simp] theorem releasePageActs_ne (p : Byte) (s : State) :
    (releasePageActs p s).ne = s.ne := by unfold releasePageActs; dsimp only; (repeat' split) <;> simp

@[simp] theorem releasePageActs_it (p : Byte) (s : State) :
    (releasePageActs p s).it = s.it := by unfold releasePageActs; dsimp only; (repeat' split) <;> simp

@[simp] theorem releasePageActs_rb (p : Byte) (s : State) :
    (releasePageActs p s).rb = s.rb := by unfold releasePageActs; dsimp only; (repeat' split) <;> simp

@[simp] theorem releasePageActs_line (p : Byte) (s : State) :
    (releasePageActs p s).line = s.line := by unfold releasePageActs; dsimp only; (repeat' split) <;> simp

@[simp] theorem releasePageActs_su (p : Byte) (s : State) :
    (releasePageActs p s).su = s.su := by unfold releasePageActs; dsimp only; (repeat' split) <;> simp

@[simp] theorem releasePageActs_el (p : Byte) (s : State) :
    (releasePageActs p s).el = s.el := by unfold releasePageActs; dsimp only; (repeat' split) <;> simp

@[simp] theorem releasePageActs_isLive (p : Byte) (s : State) :
    isLive (releasePageActs p s) = isLive s := by simp [isLive]

/-! ### `writeLinesActs` -/

@[simp] theorem writeLinesActs_pending (m v : Byte) (s : State) :
    (writeLinesActs m v s).pending = s.pending := by unfold writeLinesActs; dsimp only; (repeat' split) <;> simp

@[simp] theorem writeLinesActs_draws (m v : Byte) (s : State) :
    (writeLinesActs m v s).draws = s.draws := by unfold writeLinesActs; dsimp only; (repeat' split) <;> simp

@[simp] theorem writeLinesActs_config (m v : Byte) (s : State) :
    (writeLinesActs m v s).config = s.config := by unfold writeLinesActs; dsimp only; (repeat' split) <;> simp

@[simp] theorem writeLinesActs_supply (m v : Byte) (s : State) :
    (writeLinesActs m v s).supply = s.supply := by unfold writeLinesActs; dsimp only; (repeat' split) <;> simp

@[simp] theorem writeLinesActs_sp (m v : Byte) (s : State) :
    (writeLinesActs m v s).sp = s.sp := by unfold writeLinesActs; dsimp only; (repeat' split) <;> simp

@[simp] theorem writeLinesActs_ne (m v : Byte) (s : State) :
    (writeLinesActs m v s).ne = s.ne := by unfold writeLinesActs; dsimp only; (repeat' split) <;> simp

@[simp] theorem writeLinesActs_it (m v : Byte) (s : State) :
    (writeLinesActs m v s).it = s.it := by unfold writeLinesActs; dsimp only; (repeat' split) <;> simp

@[simp] theorem writeLinesActs_rb (m v : Byte) (s : State) :
    (writeLinesActs m v s).rb = s.rb := by unfold writeLinesActs; dsimp only; (repeat' split) <;> simp

@[simp] theorem writeLinesActs_line (m v : Byte) (s : State) :
    (writeLinesActs m v s).line = s.line := by unfold writeLinesActs; dsimp only; (repeat' split) <;> simp

@[simp] theorem writeLinesActs_su (m v : Byte) (s : State) :
    (writeLinesActs m v s).su = s.su := by unfold writeLinesActs; dsimp only; (repeat' split) <;> simp

@[simp] theorem writeLinesActs_store (m v : Byte) (s : State) :
    (writeLinesActs m v s).store = s.store := by unfold writeLinesActs; dsimp only; (repeat' split) <;> simp

@[simp] theorem writeLinesActs_alerts (m v : Byte) (s : State) :
    (writeLinesActs m v s).alerts = s.alerts := by unfold writeLinesActs; dsimp only; (repeat' split) <;> simp

@[simp] theorem writeLinesActs_isLive (m v : Byte) (s : State) :
    isLive (writeLinesActs m v s) = isLive s := by simp [isLive]

/-! ### `releaseCutoffActs` -/

@[simp] theorem releaseCutoffActs_pending (s : State) :
    (releaseCutoffActs s).pending = s.pending := by unfold releaseCutoffActs; dsimp only; (repeat' split) <;> simp

@[simp] theorem releaseCutoffActs_draws (s : State) :
    (releaseCutoffActs s).draws = s.draws := by unfold releaseCutoffActs; dsimp only; (repeat' split) <;> simp

@[simp] theorem releaseCutoffActs_config (s : State) :
    (releaseCutoffActs s).config = s.config := by unfold releaseCutoffActs; dsimp only; (repeat' split) <;> simp

@[simp] theorem releaseCutoffActs_supply (s : State) :
    (releaseCutoffActs s).supply = s.supply := by unfold releaseCutoffActs; dsimp only; (repeat' split) <;> simp

@[simp] theorem releaseCutoffActs_sp (s : State) :
    (releaseCutoffActs s).sp = s.sp := by unfold releaseCutoffActs; dsimp only; (repeat' split) <;> simp

@[simp] theorem releaseCutoffActs_ne (s : State) :
    (releaseCutoffActs s).ne = s.ne := by unfold releaseCutoffActs; dsimp only; (repeat' split) <;> simp

@[simp] theorem releaseCutoffActs_it (s : State) :
    (releaseCutoffActs s).it = s.it := by unfold releaseCutoffActs; dsimp only; (repeat' split) <;> simp

@[simp] theorem releaseCutoffActs_rb (s : State) :
    (releaseCutoffActs s).rb = s.rb := by unfold releaseCutoffActs; dsimp only; (repeat' split) <;> simp

@[simp] theorem releaseCutoffActs_line (s : State) :
    (releaseCutoffActs s).line = s.line := by unfold releaseCutoffActs; dsimp only; (repeat' split) <;> simp

@[simp] theorem releaseCutoffActs_su (s : State) :
    (releaseCutoffActs s).su = s.su := by unfold releaseCutoffActs; dsimp only; (repeat' split) <;> simp

@[simp] theorem releaseCutoffActs_store (s : State) :
    (releaseCutoffActs s).store = s.store := by unfold releaseCutoffActs; dsimp only; (repeat' split) <;> simp

@[simp] theorem releaseCutoffActs_alerts (s : State) :
    (releaseCutoffActs s).alerts = s.alerts := by unfold releaseCutoffActs; dsimp only; (repeat' split) <;> simp

@[simp] theorem releaseCutoffActs_isLive (s : State) :
    isLive (releaseCutoffActs s) = isLive s := by simp [isLive]

/-! ### `readAlertActs` -/

@[simp] theorem readAlertActs_pending (s : State) :
    (readAlertActs s).pending = s.pending := by unfold readAlertActs; split <;> simp

@[simp] theorem readAlertActs_draws (s : State) :
    (readAlertActs s).draws = s.draws := by unfold readAlertActs; split <;> simp

@[simp] theorem readAlertActs_config (s : State) :
    (readAlertActs s).config = s.config := by unfold readAlertActs; split <;> simp

@[simp] theorem readAlertActs_supply (s : State) :
    (readAlertActs s).supply = s.supply := by unfold readAlertActs; split <;> simp

@[simp] theorem readAlertActs_sp (s : State) :
    (readAlertActs s).sp = s.sp := by unfold readAlertActs; split <;> simp

@[simp] theorem readAlertActs_ne (s : State) :
    (readAlertActs s).ne = s.ne := by unfold readAlertActs; split <;> simp

@[simp] theorem readAlertActs_it (s : State) :
    (readAlertActs s).it = s.it := by unfold readAlertActs; split <;> simp

@[simp] theorem readAlertActs_rb (s : State) :
    (readAlertActs s).rb = s.rb := by unfold readAlertActs; split <;> simp

@[simp] theorem readAlertActs_line (s : State) :
    (readAlertActs s).line = s.line := by unfold readAlertActs; split <;> simp

@[simp] theorem readAlertActs_su (s : State) :
    (readAlertActs s).su = s.su := by unfold readAlertActs; split <;> simp

@[simp] theorem readAlertActs_el (s : State) :
    (readAlertActs s).el = s.el := by unfold readAlertActs; split <;> simp

@[simp] theorem readAlertActs_store (s : State) :
    (readAlertActs s).store = s.store := by unfold readAlertActs; split <;> simp

@[simp] theorem readAlertActs_alerts (s : State) :
    (readAlertActs s).alerts = s.alerts := by unfold readAlertActs; split <;> simp

@[simp] theorem readAlertActs_isLive (s : State) :
    isLive (readAlertActs s) = isLive s := by simp [isLive]

/-! ### `ackAlertActs` -/

@[simp] theorem ackAlertActs_pending (b : Byte) (s : State) :
    (ackAlertActs b s).pending = s.pending := by unfold ackAlertActs; dsimp only; (repeat' split) <;> simp

@[simp] theorem ackAlertActs_draws (b : Byte) (s : State) :
    (ackAlertActs b s).draws = s.draws := by unfold ackAlertActs; dsimp only; (repeat' split) <;> simp

@[simp] theorem ackAlertActs_config (b : Byte) (s : State) :
    (ackAlertActs b s).config = s.config := by unfold ackAlertActs; dsimp only; (repeat' split) <;> simp

@[simp] theorem ackAlertActs_supply (b : Byte) (s : State) :
    (ackAlertActs b s).supply = s.supply := by unfold ackAlertActs; dsimp only; (repeat' split) <;> simp

@[simp] theorem ackAlertActs_sp (b : Byte) (s : State) :
    (ackAlertActs b s).sp = s.sp := by unfold ackAlertActs; dsimp only; (repeat' split) <;> simp

@[simp] theorem ackAlertActs_ne (b : Byte) (s : State) :
    (ackAlertActs b s).ne = s.ne := by unfold ackAlertActs; dsimp only; (repeat' split) <;> simp

@[simp] theorem ackAlertActs_it (b : Byte) (s : State) :
    (ackAlertActs b s).it = s.it := by unfold ackAlertActs; dsimp only; (repeat' split) <;> simp

@[simp] theorem ackAlertActs_rb (b : Byte) (s : State) :
    (ackAlertActs b s).rb = s.rb := by unfold ackAlertActs; dsimp only; (repeat' split) <;> simp

@[simp] theorem ackAlertActs_line (b : Byte) (s : State) :
    (ackAlertActs b s).line = s.line := by unfold ackAlertActs; dsimp only; (repeat' split) <;> simp

@[simp] theorem ackAlertActs_su (b : Byte) (s : State) :
    (ackAlertActs b s).su = s.su := by unfold ackAlertActs; dsimp only; (repeat' split) <;> simp

@[simp] theorem ackAlertActs_el (b : Byte) (s : State) :
    (ackAlertActs b s).el = s.el := by unfold ackAlertActs; dsimp only; (repeat' split) <;> simp

@[simp] theorem ackAlertActs_store (b : Byte) (s : State) :
    (ackAlertActs b s).store = s.store := by unfold ackAlertActs; dsimp only; (repeat' split) <;> simp

@[simp] theorem ackAlertActs_isLive (b : Byte) (s : State) :
    isLive (ackAlertActs b s) = isLive s := by simp [isLive]

/-! ### `setMaskActs` -/

@[simp] theorem setMaskActs_pending (m : BitVec 16) (s : State) :
    (setMaskActs m s).pending = s.pending := by unfold setMaskActs; dsimp only; split <;> simp

@[simp] theorem setMaskActs_draws (m : BitVec 16) (s : State) :
    (setMaskActs m s).draws = s.draws := by unfold setMaskActs; dsimp only; split <;> simp

@[simp] theorem setMaskActs_config (m : BitVec 16) (s : State) :
    (setMaskActs m s).config = s.config := by unfold setMaskActs; dsimp only; split <;> simp

@[simp] theorem setMaskActs_supply (m : BitVec 16) (s : State) :
    (setMaskActs m s).supply = s.supply := by unfold setMaskActs; dsimp only; split <;> simp

@[simp] theorem setMaskActs_sp (m : BitVec 16) (s : State) :
    (setMaskActs m s).sp = s.sp := by unfold setMaskActs; dsimp only; split <;> simp

@[simp] theorem setMaskActs_ne (m : BitVec 16) (s : State) :
    (setMaskActs m s).ne = s.ne := by unfold setMaskActs; dsimp only; split <;> simp

@[simp] theorem setMaskActs_it (m : BitVec 16) (s : State) :
    (setMaskActs m s).it = s.it := by unfold setMaskActs; dsimp only; split <;> simp

@[simp] theorem setMaskActs_rb (m : BitVec 16) (s : State) :
    (setMaskActs m s).rb = s.rb := by unfold setMaskActs; dsimp only; split <;> simp

@[simp] theorem setMaskActs_line (m : BitVec 16) (s : State) :
    (setMaskActs m s).line = s.line := by unfold setMaskActs; dsimp only; split <;> simp

@[simp] theorem setMaskActs_su (m : BitVec 16) (s : State) :
    (setMaskActs m s).su = s.su := by unfold setMaskActs; dsimp only; split <;> simp

@[simp] theorem setMaskActs_el (m : BitVec 16) (s : State) :
    (setMaskActs m s).el = s.el := by unfold setMaskActs; dsimp only; split <;> simp

@[simp] theorem setMaskActs_store (m : BitVec 16) (s : State) :
    (setMaskActs m s).store = s.store := by unfold setMaskActs; dsimp only; split <;> simp

@[simp] theorem setMaskActs_isLive (m : BitVec 16) (s : State) :
    isLive (setMaskActs m s) = isLive s := by simp [isLive]

/-! ### `presetPosition` -/

@[simp] theorem presetPosition_pending (c : Setup) (id : IntervalId) (e : Nat) (s : State) :
    (presetPosition c id e s).pending = s.pending := by unfold presetPosition; dsimp only; split <;> simp

@[simp] theorem presetPosition_draws (c : Setup) (id : IntervalId) (e : Nat) (s : State) :
    (presetPosition c id e s).draws = s.draws := by unfold presetPosition; dsimp only; split <;> simp

@[simp] theorem presetPosition_config (c : Setup) (id : IntervalId) (e : Nat) (s : State) :
    (presetPosition c id e s).config = s.config := by unfold presetPosition; dsimp only; split <;> simp

@[simp] theorem presetPosition_sp (c : Setup) (id : IntervalId) (e : Nat) (s : State) :
    (presetPosition c id e s).sp = s.sp := by unfold presetPosition; dsimp only; split <;> simp

@[simp] theorem presetPosition_port (c : Setup) (id : IntervalId) (e : Nat) (s : State) :
    (presetPosition c id e s).port = s.port := by unfold presetPosition; dsimp only; split <;> simp

/-! ### `setDayPositionActs` -/

@[simp] theorem setDayPositionActs_pending (d i : BitVec 16) (e : BitVec 32) (s : State) :
    (setDayPositionActs d i e s).pending = s.pending := by unfold setDayPositionActs; dsimp only; (repeat' split) <;> simp

@[simp] theorem setDayPositionActs_draws (d i : BitVec 16) (e : BitVec 32) (s : State) :
    (setDayPositionActs d i e s).draws = s.draws := by unfold setDayPositionActs; dsimp only; (repeat' split) <;> simp

@[simp] theorem setDayPositionActs_config (d i : BitVec 16) (e : BitVec 32) (s : State) :
    (setDayPositionActs d i e s).config = s.config := by unfold setDayPositionActs; dsimp only; (repeat' split) <;> simp

@[simp] theorem setDayPositionActs_sp (d i : BitVec 16) (e : BitVec 32) (s : State) :
    (setDayPositionActs d i e s).sp = s.sp := by unfold setDayPositionActs; dsimp only; (repeat' split) <;> simp

/-! ### `switchChannel` -/

@[simp] theorem switchChannel_pending (ch : Channel) (b : Bool) (s : State) :
    (switchChannel ch b s).pending = s.pending := rfl

@[simp] theorem switchChannel_draws (ch : Channel) (b : Bool) (s : State) :
    (switchChannel ch b s).draws = s.draws := rfl

@[simp] theorem switchChannel_config (ch : Channel) (b : Bool) (s : State) :
    (switchChannel ch b s).config = s.config := rfl

@[simp] theorem switchChannel_supply (ch : Channel) (b : Bool) (s : State) :
    (switchChannel ch b s).supply = s.supply := rfl

@[simp] theorem switchChannel_sp (ch : Channel) (b : Bool) (s : State) :
    (switchChannel ch b s).sp = s.sp := rfl

@[simp] theorem switchChannel_ne (ch : Channel) (b : Bool) (s : State) :
    (switchChannel ch b s).ne = s.ne := rfl

@[simp] theorem switchChannel_it (ch : Channel) (b : Bool) (s : State) :
    (switchChannel ch b s).it = s.it := rfl

@[simp] theorem switchChannel_rb (ch : Channel) (b : Bool) (s : State) :
    (switchChannel ch b s).rb = s.rb := rfl

@[simp] theorem switchChannel_su (ch : Channel) (b : Bool) (s : State) :
    (switchChannel ch b s).su = s.su := rfl

@[simp] theorem switchChannel_el (ch : Channel) (b : Bool) (s : State) :
    (switchChannel ch b s).el = s.el := rfl

@[simp] theorem switchChannel_store (ch : Channel) (b : Bool) (s : State) :
    (switchChannel ch b s).store = s.store := rfl

@[simp] theorem switchChannel_alerts (ch : Channel) (b : Bool) (s : State) :
    (switchChannel ch b s).alerts = s.alerts := rfl

@[simp] theorem switchChannel_port (ch : Channel) (b : Bool) (s : State) :
    (switchChannel ch b s).port = s.port := rfl

@[simp] theorem switchChannel_isLive (ch : Channel) (b : Bool) (s : State) :
    isLive (switchChannel ch b s) = isLive s := by simp [isLive]

/-! ### `enableChannelActs` -/

@[simp] theorem enableChannelActs_pending (x y : Byte) (s : State) :
    (enableChannelActs x y s).pending = s.pending := by unfold enableChannelActs; dsimp only; (repeat' split) <;> simp

@[simp] theorem enableChannelActs_draws (x y : Byte) (s : State) :
    (enableChannelActs x y s).draws = s.draws := by unfold enableChannelActs; dsimp only; (repeat' split) <;> simp

@[simp] theorem enableChannelActs_config (x y : Byte) (s : State) :
    (enableChannelActs x y s).config = s.config := by unfold enableChannelActs; dsimp only; (repeat' split) <;> simp

@[simp] theorem enableChannelActs_supply (x y : Byte) (s : State) :
    (enableChannelActs x y s).supply = s.supply := by unfold enableChannelActs; dsimp only; (repeat' split) <;> simp

@[simp] theorem enableChannelActs_sp (x y : Byte) (s : State) :
    (enableChannelActs x y s).sp = s.sp := by unfold enableChannelActs; dsimp only; (repeat' split) <;> simp

@[simp] theorem enableChannelActs_ne (x y : Byte) (s : State) :
    (enableChannelActs x y s).ne = s.ne := by unfold enableChannelActs; dsimp only; (repeat' split) <;> simp

@[simp] theorem enableChannelActs_it (x y : Byte) (s : State) :
    (enableChannelActs x y s).it = s.it := by unfold enableChannelActs; dsimp only; (repeat' split) <;> simp

@[simp] theorem enableChannelActs_rb (x y : Byte) (s : State) :
    (enableChannelActs x y s).rb = s.rb := by unfold enableChannelActs; dsimp only; (repeat' split) <;> simp

@[simp] theorem enableChannelActs_su (x y : Byte) (s : State) :
    (enableChannelActs x y s).su = s.su := by unfold enableChannelActs; dsimp only; (repeat' split) <;> simp

@[simp] theorem enableChannelActs_el (x y : Byte) (s : State) :
    (enableChannelActs x y s).el = s.el := by unfold enableChannelActs; dsimp only; (repeat' split) <;> simp

@[simp] theorem enableChannelActs_store (x y : Byte) (s : State) :
    (enableChannelActs x y s).store = s.store := by unfold enableChannelActs; dsimp only; (repeat' split) <;> simp

@[simp] theorem enableChannelActs_alerts (x y : Byte) (s : State) :
    (enableChannelActs x y s).alerts = s.alerts := by unfold enableChannelActs; dsimp only; (repeat' split) <;> simp

@[simp] theorem enableChannelActs_isLive (x y : Byte) (s : State) :
    isLive (enableChannelActs x y s) = isLive s := by simp [isLive]

/-! ### `resyncFromRun` -/

@[simp] theorem resyncFromRun_pending (c : Setup) (s : State) :
    (resyncFromRun c s).pending = s.pending := by simp [resyncFromRun]

@[simp] theorem resyncFromRun_draws (c : Setup) (s : State) :
    (resyncFromRun c s).draws = s.draws := by simp [resyncFromRun]

@[simp] theorem resyncFromRun_config (c : Setup) (s : State) :
    (resyncFromRun c s).config = s.config := by simp [resyncFromRun]

@[simp] theorem resyncFromRun_sp (c : Setup) (s : State) :
    (resyncFromRun c s).sp = s.sp := by simp [resyncFromRun]

@[simp] theorem resyncFromRun_port (c : Setup) (s : State) :
    (resyncFromRun c s).port = s.port := by simp [resyncFromRun]

/-! ### `resyncActs` -/

@[simp] theorem resyncActs_pending (s : State) :
    (resyncActs s).pending = s.pending := by unfold resyncActs; (repeat' split) <;> simp

@[simp] theorem resyncActs_draws (s : State) :
    (resyncActs s).draws = s.draws := by unfold resyncActs; (repeat' split) <;> simp

@[simp] theorem resyncActs_config (s : State) :
    (resyncActs s).config = s.config := by unfold resyncActs; (repeat' split) <;> simp

@[simp] theorem resyncActs_sp (s : State) :
    (resyncActs s).sp = s.sp := by unfold resyncActs; (repeat' split) <;> simp

/-! ### `unknownActs` -/

@[simp] theorem unknownActs_pending (b : Byte) (s : State) :
    (unknownActs b s).pending = s.pending := by unfold unknownActs; split <;> rfl

@[simp] theorem unknownActs_draws (b : Byte) (s : State) :
    (unknownActs b s).draws = s.draws := by unfold unknownActs; split <;> rfl

@[simp] theorem unknownActs_config (b : Byte) (s : State) :
    (unknownActs b s).config = s.config := by unfold unknownActs; split <;> rfl

@[simp] theorem unknownActs_supply (b : Byte) (s : State) :
    (unknownActs b s).supply = s.supply := by unfold unknownActs; split <;> rfl

@[simp] theorem unknownActs_sp (b : Byte) (s : State) :
    (unknownActs b s).sp = s.sp := by unfold unknownActs; split <;> rfl

@[simp] theorem unknownActs_ne (b : Byte) (s : State) :
    (unknownActs b s).ne = s.ne := by unfold unknownActs; split <;> rfl

@[simp] theorem unknownActs_it (b : Byte) (s : State) :
    (unknownActs b s).it = s.it := by unfold unknownActs; split <;> rfl

@[simp] theorem unknownActs_rb (b : Byte) (s : State) :
    (unknownActs b s).rb = s.rb := by unfold unknownActs; split <;> rfl

@[simp] theorem unknownActs_line (b : Byte) (s : State) :
    (unknownActs b s).line = s.line := by unfold unknownActs; split <;> rfl

@[simp] theorem unknownActs_su (b : Byte) (s : State) :
    (unknownActs b s).su = s.su := by unfold unknownActs; split <;> rfl

@[simp] theorem unknownActs_el (b : Byte) (s : State) :
    (unknownActs b s).el = s.el := by unfold unknownActs; split <;> rfl

@[simp] theorem unknownActs_store (b : Byte) (s : State) :
    (unknownActs b s).store = s.store := by unfold unknownActs; split <;> rfl

@[simp] theorem unknownActs_alerts (b : Byte) (s : State) :
    (unknownActs b s).alerts = s.alerts := by unfold unknownActs; split <;> rfl

@[simp] theorem unknownActs_isLive (b : Byte) (s : State) :
    isLive (unknownActs b s) = isLive s := by simp [isLive]

/-! ### `transactionBegins` -/

@[simp] theorem transactionBegins_pending (b : List Byte) (s : State) :
    (transactionBegins b s).pending = s.pending := by unfold transactionBegins; split <;> rfl

@[simp] theorem transactionBegins_draws (b : List Byte) (s : State) :
    (transactionBegins b s).draws = s.draws := by unfold transactionBegins; split <;> rfl

@[simp] theorem transactionBegins_config (b : List Byte) (s : State) :
    (transactionBegins b s).config = s.config := by unfold transactionBegins; split <;> rfl

@[simp] theorem transactionBegins_supply (b : List Byte) (s : State) :
    (transactionBegins b s).supply = s.supply := by unfold transactionBegins; split <;> rfl

@[simp] theorem transactionBegins_sp (b : List Byte) (s : State) :
    (transactionBegins b s).sp = s.sp := by unfold transactionBegins; split <;> rfl

@[simp] theorem transactionBegins_ne (b : List Byte) (s : State) :
    (transactionBegins b s).ne = s.ne := by unfold transactionBegins; split <;> rfl

@[simp] theorem transactionBegins_it (b : List Byte) (s : State) :
    (transactionBegins b s).it = s.it := by unfold transactionBegins; split <;> rfl

@[simp] theorem transactionBegins_rb (b : List Byte) (s : State) :
    (transactionBegins b s).rb = s.rb := by unfold transactionBegins; split <;> rfl

@[simp] theorem transactionBegins_line (b : List Byte) (s : State) :
    (transactionBegins b s).line = s.line := by unfold transactionBegins; split <;> rfl

@[simp] theorem transactionBegins_su (b : List Byte) (s : State) :
    (transactionBegins b s).su = s.su := by unfold transactionBegins; split <;> rfl

@[simp] theorem transactionBegins_el (b : List Byte) (s : State) :
    (transactionBegins b s).el = s.el := by unfold transactionBegins; split <;> rfl

@[simp] theorem transactionBegins_store (b : List Byte) (s : State) :
    (transactionBegins b s).store = s.store := by unfold transactionBegins; split <;> rfl

@[simp] theorem transactionBegins_alerts (b : List Byte) (s : State) :
    (transactionBegins b s).alerts = s.alerts := by unfold transactionBegins; split <;> rfl

@[simp] theorem transactionBegins_isLive (b : List Byte) (s : State) :
    isLive (transactionBegins b s) = isLive s := by simp [isLive]

/-! ### `served` -/

@[simp] theorem served_pending {f : State → State} {s : State} (h : (f s).pending = s.pending) :
    (served f s).pending = s.pending := by unfold served; split <;> simp [h]

@[simp] theorem served_draws {f : State → State} {s : State} (h : (f s).draws = s.draws) :
    (served f s).draws = s.draws := by unfold served; split <;> simp [h]

@[simp] theorem served_config {f : State → State} {s : State} (h : (f s).config = s.config) :
    (served f s).config = s.config := by unfold served; split <;> simp [h]

@[simp] theorem served_supply {f : State → State} {s : State} (h : (f s).supply = s.supply) :
    (served f s).supply = s.supply := by unfold served; split <;> simp [h]

@[simp] theorem served_sp {f : State → State} {s : State} (h : (f s).sp = s.sp) :
    (served f s).sp = s.sp := by unfold served; split <;> simp [h]

@[simp] theorem served_ne {f : State → State} {s : State} (h : (f s).ne = s.ne) :
    (served f s).ne = s.ne := by unfold served; split <;> simp [h]

@[simp] theorem served_it {f : State → State} {s : State} (h : (f s).it = s.it) :
    (served f s).it = s.it := by unfold served; split <;> simp [h]

@[simp] theorem served_rb {f : State → State} {s : State} (h : (f s).rb = s.rb) :
    (served f s).rb = s.rb := by unfold served; split <;> simp [h]

@[simp] theorem served_line {f : State → State} {s : State} (h : (f s).line = s.line) :
    (served f s).line = s.line := by unfold served; split <;> simp [h]

@[simp] theorem served_su {f : State → State} {s : State} (h : (f s).su = s.su) :
    (served f s).su = s.su := by unfold served; split <;> simp [h]

@[simp] theorem served_el {f : State → State} {s : State} (h : (f s).el = s.el) :
    (served f s).el = s.el := by unfold served; split <;> simp [h]

@[simp] theorem served_store {f : State → State} {s : State} (h : (f s).store = s.store) :
    (served f s).store = s.store := by unfold served; split <;> simp [h]

@[simp] theorem served_alerts {f : State → State} {s : State} (h : (f s).alerts = s.alerts) :
    (served f s).alerts = s.alerts := by unfold served; split <;> simp [h]

@[simp] theorem served_isLive {f : State → State} {s : State} (h : isLive (f s) = isLive s) :
    isLive (served f s) = isLive s := by unfold served; split <;> simp [h]

/-! ### `unlessHeld` -/

@[simp] theorem unlessHeld_pending {f : State → State} {s : State} (h : (f s).pending = s.pending) :
    (unlessHeld f s).pending = s.pending := by unfold unlessHeld; split <;> simp [h]

@[simp] theorem unlessHeld_draws {f : State → State} {s : State} (h : (f s).draws = s.draws) :
    (unlessHeld f s).draws = s.draws := by unfold unlessHeld; split <;> simp [h]

@[simp] theorem unlessHeld_config {f : State → State} {s : State} (h : (f s).config = s.config) :
    (unlessHeld f s).config = s.config := by unfold unlessHeld; split <;> simp [h]

@[simp] theorem unlessHeld_supply {f : State → State} {s : State} (h : (f s).supply = s.supply) :
    (unlessHeld f s).supply = s.supply := by unfold unlessHeld; split <;> simp [h]

@[simp] theorem unlessHeld_sp {f : State → State} {s : State} (h : (f s).sp = s.sp) :
    (unlessHeld f s).sp = s.sp := by unfold unlessHeld; split <;> simp [h]

@[simp] theorem unlessHeld_ne {f : State → State} {s : State} (h : (f s).ne = s.ne) :
    (unlessHeld f s).ne = s.ne := by unfold unlessHeld; split <;> simp [h]

@[simp] theorem unlessHeld_it {f : State → State} {s : State} (h : (f s).it = s.it) :
    (unlessHeld f s).it = s.it := by unfold unlessHeld; split <;> simp [h]

@[simp] theorem unlessHeld_rb {f : State → State} {s : State} (h : (f s).rb = s.rb) :
    (unlessHeld f s).rb = s.rb := by unfold unlessHeld; split <;> simp [h]

@[simp] theorem unlessHeld_line {f : State → State} {s : State} (h : (f s).line = s.line) :
    (unlessHeld f s).line = s.line := by unfold unlessHeld; split <;> simp [h]

@[simp] theorem unlessHeld_su {f : State → State} {s : State} (h : (f s).su = s.su) :
    (unlessHeld f s).su = s.su := by unfold unlessHeld; split <;> simp [h]

@[simp] theorem unlessHeld_el {f : State → State} {s : State} (h : (f s).el = s.el) :
    (unlessHeld f s).el = s.el := by unfold unlessHeld; split <;> simp [h]

@[simp] theorem unlessHeld_store {f : State → State} {s : State} (h : (f s).store = s.store) :
    (unlessHeld f s).store = s.store := by unfold unlessHeld; split <;> simp [h]

@[simp] theorem unlessHeld_alerts {f : State → State} {s : State} (h : (f s).alerts = s.alerts) :
    (unlessHeld f s).alerts = s.alerts := by unfold unlessHeld; split <;> simp [h]

@[simp] theorem unlessHeld_port {f : State → State} {s : State} (h : (f s).port = s.port) :
    (unlessHeld f s).port = s.port := by unfold unlessHeld; split <;> simp [h]

@[simp] theorem unlessHeld_isLive {f : State → State} {s : State} (h : isLive (f s) = isLive s) :
    isLive (unlessHeld f s) = isLive s := by unfold unlessHeld; split <;> simp [h]

/-! ### What is written to the readout port -/

@[simp] theorem respond_port (i : Instr) (r : ResultCode) (data : List Byte) (s : State) :
    (respond i r data s).port = ⟨.responding, (mosi i).getD [], some (resultByte r :: data), true, true⟩ := rfl

@[simp] theorem csnFalls_port (s : State) :
    (csnFalls s).port = { s.port with csnLow := true } := rfl

@[simp] theorem csnRises_port (s : State) :
    (csnRises s).port = ⟨.idle, [], none, !s.supply.resetHeld, false⟩ := rfl

@[simp] theorem holdReset_port (s : State) :
    (holdReset s).port = ⟨.idle, [], none, false, s.port.csnLow⟩ := rfl

@[simp] theorem endReset_port (pfw csnLow : Bool) (s : State) :
    (endReset pfw csnLow s).port = ⟨.idle, [], none, !csnLow, csnLow⟩ := rfl

@[simp] theorem clearedPart_port (s : State) :
    (clearedPart s).port = ⟨.idle, [], none, true, s.port.csnLow⟩ := rfl

@[simp] theorem retainedPart_port (s : State) :
    (retainedPart s).port = ⟨.idle, [], none, true, s.port.csnLow⟩ := rfl

end Sys2Proof.Machine
end

