-- ==== Sys2Proof/Laws/Limiter.lean ====
section
/-! SUPPORT. The Export Limiter: what each of its operations can do, and that every one of them keeps
the law of the shed stack (R105 to R123). -/

namespace Sys2Proof.Machine

/-! ## Caps -/

@[simp] theorem takeCap_shed (e : Limiter) : (takeCap e).shed = e.shed := by
  unfold takeCap; split <;> rfl

@[simp] theorem takeCap_latch (e : Limiter) : (takeCap e).latch = e.latch := by
  unfold takeCap; split <;> rfl

@[simp] theorem takeCap_cutoffLatch (e : Limiter) : (takeCap e).cutoffLatch = e.cutoffLatch := by
  unfold takeCap; split <;> rfl

@[simp] theorem takeCap_settling (e : Limiter) : (takeCap e).settling = e.settling := by
  unfold takeCap; split <;> rfl

@[simp] theorem takeCap_holdOff (e : Limiter) : (takeCap e).holdOff = e.holdOff := by
  unfold takeCap; split <;> rfl

@[simp] theorem takeCap_overCount (e : Limiter) : (takeCap e).overCount = e.overCount := by
  unfold takeCap; split <;> rfl

@[simp] theorem takeCap_underCount (e : Limiter) : (takeCap e).underCount = e.underCount := by
  unfold takeCap; split <;> rfl

@[simp] theorem takeCap_level (e : Limiter) : (takeCap e).level = e.level := by
  unfold takeCap; split <;> rfl

@[simp] theorem takeCap_runCount (e : Limiter) : (takeCap e).runCount = e.runCount := by
  unfold takeCap; split <;> rfl

@[simp] theorem takeCap_curtailedSeen (e : Limiter) :
    (takeCap e).curtailedSeen = e.curtailedSeen := by
  unfold takeCap; split <;> rfl

@[simp] theorem takeCap_cutoffSeen (e : Limiter) : (takeCap e).cutoffSeen = e.cutoffSeen := by
  unfold takeCap; split <;> rfl

/-- A waiting cap is taken and nothing waits afterwards (R105). -/
theorem takeCap_caps (e : Limiter) :
    (takeCap e).pendingCap = none
      ∧ (takeCap e).effectiveCap = (match e.pendingCap with
          | some cap => some cap
          | none => e.effectiveCap) := by
  unfold takeCap
  split <;> rename_i h <;> simp [h]

/-! ## Active lines -/

/-- What the highest active line is (R114, R115): its latch bit is 1, it is wired, it is not shed, and
the cutoff latch is clear. -/
theorem highestActive_some {c : Setup} {live : Bool} {e : Limiter} {k : Fin 4}
    (h : highestActive c live e = some k) :
    live = true ∧ e.latch.getLsbD k = true ∧ c.wired.getLsbD k = true ∧ k ∉ e.shed
      ∧ e.cutoffLatch = false := by
  have := List.find?_some h
  simpa [lineActive, and_assoc] using this

/-- No line is active while the cutoff latch is set (R114, R117). -/
theorem highestActive_cutoff {c : Setup} {live : Bool} {e : Limiter} (h : e.cutoffLatch = true) :
    highestActive c live e = none := by
  rw [highestActive, List.find?_eq_none]
  intro k _
  simp [lineActive, h]

/-! ## Judging -/

/-- Everything a block close can do to the limiter (R105, R107 to R110). -/
theorem judgeBlock_cases (c : Setup) (live : Bool) (net : Nat) (e : Limiter) :
    judgeBlock c live net e = { takeCap e with settling := false }
      ∨ judgeBlock c live net e = { takeCap e with holdOff := e.holdOff - 1 }
      ∨ judgeBlock c live net e = { takeCap e with overCount := e.overCount + 1, underCount := 0 }
      ∨ (∃ k, highestActive c live (takeCap e) = some k ∧
          judgeBlock c live net e =
            { takeCap e with
              shed := e.shed ++ [k]
              overCount := 0
              underCount := 0
              holdOff := c.holdOffLength
              curtailedSeen := true })
      ∨ judgeBlock c live net e = { takeCap e with overCount := 0, underCount := 0 }
      ∨ judgeBlock c live net e = { takeCap e with underCount := e.underCount + 1, overCount := 0 }
      ∨ judgeBlock c live net e =
          { takeCap e with
            shed := e.shed.dropLast
            underCount := 0
            overCount := 0
            holdOff := c.holdOffLength
            settling := true } := by
  unfold judgeBlock
  cases verdict net (takeCap e) with
  | settling => exact .inl rfl
  | holdingOff => exact .inr (.inl (by simp))
  | above =>
    simp only [overBlock]
    split
    · exact .inr (.inr (.inl (by simp)))
    · split
      · rename_i k hk
        exact .inr (.inr (.inr (.inl ⟨k, hk, by simp⟩)))
      · exact .inr (.inr (.inr (.inr (.inl rfl))))
  | quiet =>
    simp only [quietBlock]
    split
    · exact .inr (.inr (.inr (.inr (.inr (.inl (by simp))))))
    · exact .inr (.inr (.inr (.inr (.inr (.inr (by simp))))))
  | between => exact .inr (.inr (.inr (.inr (.inl rfl))))

/-! ## The law of the shed stack -/

theorem ShedLaw.of_eq {e f : Limiter} (h : ShedLaw e) (hs : f.shed = e.shed)
    (hl : f.latch = e.latch) (hc : f.cutoffLatch = e.cutoffLatch) : ShedLaw f := by
  unfold ShedLaw at *
  rw [hs, hl, hc]
  exact h

/-- Entries that stay keep the law where the latch keeps their bits. -/
theorem ShedLaw.of_sublist {e f : Limiter} (h : ShedLaw e) (hs : f.shed.Sublist e.shed)
    (hl : ∀ k ∈ f.shed, f.latch.getLsbD k = true)
    (hc : f.cutoffLatch = true → e.cutoffLatch = true ∨ f.shed = []) : ShedLaw f := by
  refine ⟨h.1.sublist hs, hl, fun ht => ?_⟩
  rcases hc ht with hc | hc
  · have := h.2.2 hc
    rw [this] at hs
    exact List.eq_nil_of_sublist_nil hs
  · exact hc

/-- A block close keeps the law of the shed stack (R108, R109). -/
theorem judgeBlock_keeps_shed (c : Setup) (live : Bool) (net : Nat) {e : Limiter} (h : ShedLaw e) :
    ShedLaw (judgeBlock c live net e) := by
  rcases judgeBlock_cases c live net e with he | he | he | ⟨k, hk, he⟩ | he | he | he <;> rw [he]
  · exact h.of_eq (by simp) (by simp) (by simp)
  · exact h.of_eq (by simp) (by simp) (by simp)
  · exact h.of_eq (by simp) (by simp) (by simp)
  · obtain ⟨_, hlatch, _, hnot, hcut⟩ := highestActive_some hk
    simp only [takeCap_latch, takeCap_shed, takeCap_cutoffLatch] at hlatch hnot hcut
    refine ⟨?_, ?_, ?_⟩
    · rw [List.nodup_append]
      refine ⟨h.1, List.nodup_singleton _, ?_⟩
      intro a ha b hb
      simp only [List.mem_singleton] at hb
      subst hb
      exact fun hab => hnot (hab ▸ ha)
    · intro a ha
      simp only [List.mem_append, List.mem_singleton] at ha
      rcases ha with ha | rfl
      · simpa using h.2.1 a ha
      · simpa using hlatch
    · intro ht
      simp [hcut] at ht
  · exact h.of_eq (by simp) (by simp) (by simp)
  · exact h.of_eq (by simp) (by simp) (by simp)
  · refine h.of_sublist (List.dropLast_sublist _) ?_ ?_
    · intro a ha
      simpa using h.2.1 a (List.dropLast_subset _ ha)
    · intro ht
      exact .inl (by simpa using ht)

/-- A host write keeps the law of the shed stack (R112, R113). -/
theorem writeLatch_keeps_shed (c : Setup) (new : BitVec 4) {e : Limiter} (h : ShedLaw e) :
    ShedLaw (writeLatch c new e) := by
  refine h.of_sublist (List.filter_sublist) ?_ (fun ht => .inl ht)
  intro k hk
  have hk' := (List.mem_filter.mp hk).2
  simpa [writeLatch] using hk'

/-- A sample of CUTOFF keeps the law of the shed stack (R116, R117). -/
theorem filterSample_limits (b : Bool) (e : Limiter) :
    (filterSample b e).shed = e.shed ∧ (filterSample b e).latch = e.latch
      ∧ (filterSample b e).cutoffLatch = e.cutoffLatch := by
  unfold filterSample
  (repeat' split) <;> exact ⟨rfl, rfl, rfl⟩

/-- The limiter on HOLD entry keeps the law of the shed stack (R121). -/
theorem limiterHold_keeps_shed (e : Limiter) : ShedLaw (limiterHold e) :=
  ⟨by simp [limiterHold, clearCounts], by simp [limiterHold, clearCounts],
    fun _ => by simp [limiterHold, clearCounts]⟩

/-- The setting of the cutoff latch empties the stack (R117). -/
theorem setCutoff_keeps_shed (b : Bool) (e : Limiter) : ShedLaw (setCutoff b e) :=
  ⟨by simp [setCutoff, clearCounts], by simp [setCutoff, clearCounts],
    fun _ => by simp [setCutoff, clearCounts]⟩

theorem handCap_keeps_shed (n : Nat) {e : Limiter} (h : ShedLaw e) : ShedLaw (handCap n e) := h

theorem startFlags_keeps_shed {e : Limiter} (h : ShedLaw e) : ShedLaw (startFlags e) := h

end Sys2Proof.Machine
end

