-- ==== Sys2Proof/Laws/Line.lean ====
section
/-! SUPPORT. The Line Controller: what each of its operations can do, and what holds of a line that has
been judged (R52 to R77). -/

namespace Sys2Proof.Machine

/-! ## The two channels -/

@[simp] theorem chanOf_setChan_same (l : Line) (ch : Channel) (c : Chan) :
    chanOf (setChan l ch c) ch = c := by cases ch <;> rfl

theorem chanOf_setChan_other {ch k : Channel} (l : Line) (c : Chan) (h : k ≠ ch) :
    chanOf (setChan l ch c) k = chanOf l k := by
  cases ch <;> cases k <;> first | rfl | exact absurd rfl h

@[simp] theorem setChan_sendList (l : Line) (ch : Channel) (c : Chan) :
    (setChan l ch c).sendList = l.sendList := by cases ch <;> rfl

@[simp] theorem setChan_outcome (l : Line) (ch : Channel) (c : Chan) :
    (setChan l ch c).outcome = l.outcome := by cases ch <;> rfl

@[simp] theorem setChan_barred (l : Line) (ch : Channel) (c : Chan) :
    (setChan l ch c).barred = l.barred := by cases ch <;> rfl

@[simp] theorem setChan_filter (l : Line) (ch : Channel) (c : Chan) :
    (setChan l ch c).filter = l.filter := by cases ch <;> rfl

@[simp] theorem setChan_nextSerial (l : Line) (ch : Channel) (c : Chan) :
    (setChan l ch c).nextSerial = l.nextSerial := by cases ch <;> rfl

/-! ## The sending set -/

/-- The sending set depends on the channels' states alone (R59). -/
theorem inSendingSet_congr {l m : Line} (hl : m.l.state = l.l.state) (hh : m.h.state = l.h.state)
    (ch : Channel) : inSendingSet m ch = inSendingSet l ch := by
  cases ch <;> simp [inSendingSet, chanOf, hl, hh]

/-- A channel of the sending set is GOOD or DEGRADED (R59). -/
theorem inSendingSet_state {l : Line} {ch : Channel} (h : inSendingSet l ch = true) :
    (chanOf l ch).state = .good ∨ (chanOf l ch).state = .degraded := by
  simp only [inSendingSet, Bool.or_eq_true, Bool.and_eq_true, beq_iff_eq] at h
  tauto

theorem entryDone_congr {l m : Line} (h : ∀ ch, inSendingSet m ch = inSendingSet l ch) (e : Entry) :
    entryDone m e = entryDone l e := by
  simp [entryDone, h]

/-! ## The stages of `judgeLine` -/

@[simp] theorem lapseChan_state (b : Bool) (c : Chan) : (lapseChan b c).state = c.state := by
  unfold lapseChan; (repeat' split) <;> rfl

@[simp] theorem lapseChan_recv (b : Bool) (c : Chan) : (lapseChan b c).recv = c.recv := by
  unfold lapseChan; (repeat' split) <;> rfl

@[simp] theorem lapseChan_errors (b : Bool) (c : Chan) : (lapseChan b c).errors = c.errors := by
  unfold lapseChan; (repeat' split) <;> rfl

@[simp] theorem lapseChan_cs (b : Bool) (c : Chan) : (lapseChan b c).cs = c.cs := by
  unfold lapseChan; (repeat' split) <;> rfl

@[simp] theorem freeChan_state (es : List Entry) (c : Chan) : (freeChan es c).state = c.state := by
  unfold freeChan; split <;> rfl

@[simp] theorem freeChan_recv (es : List Entry) (c : Chan) : (freeChan es c).recv = c.recv := by
  unfold freeChan; split <;> rfl

@[simp] theorem freeChan_errors (es : List Entry) (c : Chan) : (freeChan es c).errors = c.errors := by
  unfold freeChan; split <;> rfl

@[simp] theorem freeChan_cs (es : List Entry) (c : Chan) : (freeChan es c).cs = c.cs := by
  unfold freeChan; split <;> rfl

@[simp] theorem commitChan_state (b : Bool) (ch : Channel) (es : List Entry) (c : Chan) :
    (commitChan b ch es c).state = c.state := by
  unfold commitChan; (repeat' split) <;> rfl

@[simp] theorem commitChan_recv (b : Bool) (ch : Channel) (es : List Entry) (c : Chan) :
    (commitChan b ch es c).recv = c.recv := by
  unfold commitChan; (repeat' split) <;> rfl

@[simp] theorem commitChan_errors (b : Bool) (ch : Channel) (es : List Entry) (c : Chan) :
    (commitChan b ch es c).errors = c.errors := by
  unfold commitChan; (repeat' split) <;> rfl

@[simp] theorem commitChan_cs (b : Bool) (ch : Channel) (es : List Entry) (c : Chan) :
    (commitChan b ch es c).cs = c.cs := by
  unfold commitChan; (repeat' split) <;> rfl

@[simp] theorem leaveEntries_l (l : Line) : (leaveEntries l).l = l.l := by
  unfold leaveEntries; split <;> rfl

@[simp] theorem leaveEntries_h (l : Line) : (leaveEntries l).h = l.h := by
  unfold leaveEntries; split <;> rfl

@[simp] theorem leaveEntries_barred (l : Line) : (leaveEntries l).barred = l.barred := by
  unfold leaveEntries; split <;> rfl

@[simp] theorem leaveEntries_filter (l : Line) : (leaveEntries l).filter = l.filter := by
  unfold leaveEntries; split <;> rfl

@[simp] theorem leaveEntries_nextSerial (l : Line) :
    (leaveEntries l).nextSerial = l.nextSerial := by
  unfold leaveEntries; split <;> rfl

/-- The list R60 leaves: without the entries whose status is SENT or DROPPED on every channel of a
sending set that is not empty. -/
def remaining (l : Line) : List Entry :=
  if inSendingSet l .l || inSendingSet l .h then l.sendList.filter fun e => !entryDone l e
  else l.sendList

theorem remaining_sublist (l : Line) : (remaining l).Sublist l.sendList := by
  unfold remaining
  split
  · exact List.filter_sublist
  · exact List.Sublist.refl _

theorem leaveEntries_sendList (l : Line) : (leaveEntries l).sendList = remaining l := by
  unfold leaveEntries remaining
  split <;> rfl

/-! ## What a judged line is -/

@[simp] theorem judgeLine_barred (live : Bool) (l : Line) : (judgeLine live l).barred = l.barred := by
  simp [judgeLine, commitChans, freeChans, lapseChans]

@[simp] theorem judgeLine_filter (live : Bool) (l : Line) : (judgeLine live l).filter = l.filter := by
  simp [judgeLine, commitChans, freeChans, lapseChans]

@[simp] theorem judgeLine_nextSerial (live : Bool) (l : Line) :
    (judgeLine live l).nextSerial = l.nextSerial := by
  simp [judgeLine, commitChans, freeChans, lapseChans]

/-- Judging changes no channel state, so it does not change the sending set. -/
@[simp] theorem judgeLine_state (live : Bool) (l : Line) (ch : Channel) :
    (chanOf (judgeLine live l) ch).state = (chanOf l ch).state := by
  cases ch <;> simp [judgeLine, commitChans, freeChans, lapseChans, chanOf]

@[simp] theorem judgeLine_recv (live : Bool) (l : Line) (ch : Channel) :
    (chanOf (judgeLine live l) ch).recv = (chanOf l ch).recv := by
  cases ch <;> simp [judgeLine, commitChans, freeChans, lapseChans, chanOf]

@[simp] theorem judgeLine_errors (live : Bool) (l : Line) (ch : Channel) :
    (chanOf (judgeLine live l) ch).errors = (chanOf l ch).errors := by
  cases ch <;> simp [judgeLine, commitChans, freeChans, lapseChans, chanOf]

@[simp] theorem judgeLine_cs (live : Bool) (l : Line) (ch : Channel) :
    (chanOf (judgeLine live l) ch).cs = (chanOf l ch).cs := by
  cases ch <;> simp [judgeLine, commitChans, freeChans, lapseChans, chanOf]

@[simp] theorem judgeLine_inSendingSet (live : Bool) (l : Line) (ch : Channel) :
    inSendingSet (judgeLine live l) ch = inSendingSet l ch :=
  inSendingSet_congr (judgeLine_state live l .l) (judgeLine_state live l .h) ch

theorem lapseChans_inSendingSet (l : Line) (ch : Channel) :
    inSendingSet (lapseChans l) ch = inSendingSet l ch :=
  inSendingSet_congr (by simp [lapseChans]) (by simp [lapseChans]) ch

theorem lapseChans_remaining (l : Line) : remaining (lapseChans l) = remaining l := by
  have hd : ∀ e, entryDone (lapseChans l) e = entryDone l e :=
    entryDone_congr (lapseChans_inSendingSet l)
  have hl : (lapseChans l).sendList = l.sendList := rfl
  unfold remaining
  simp only [lapseChans_inSendingSet, hd, hl]

/-- The list of a judged line: what R60 leaves. -/
theorem judgeLine_sendList (live : Bool) (l : Line) :
    (judgeLine live l).sendList = remaining l := by
  rw [← lapseChans_remaining]
  simp [judgeLine, commitChans, freeChans, leaveEntries_sendList]

/-- A channel of a judged line: what R59, R58 and R62 make of it, in that order. -/
theorem judgeLine_chan (live : Bool) (l : Line) (ch : Channel) :
    chanOf (judgeLine live l) ch =
      commitChan (live && !l.barred && inSendingSet l ch) ch (remaining l)
        (freeChan (remaining l) (lapseChan (inSendingSet l ch) (chanOf l ch))) := by
  have hs : ∀ k, inSendingSet (freeChans (leaveEntries (lapseChans l))) k = inSendingSet l k := by
    intro k
    exact inSendingSet_congr (by simp [freeChans, lapseChans]) (by simp [freeChans, lapseChans]) k
  have hlist : (leaveEntries (lapseChans l)).sendList = remaining l := by
    rw [leaveEntries_sendList, lapseChans_remaining]
  have hb : (freeChans (leaveEntries (lapseChans l))).barred = l.barred := by
    simp [freeChans, lapseChans]
  have hfree : (freeChans (leaveEntries (lapseChans l))).sendList = remaining l := hlist
  unfold judgeLine commitChans
  rw [hs, hs, hb, hfree]
  cases ch <;> simp only [chanOf, freeChans, hlist, leaveEntries_l, leaveEntries_h] <;>
    simp only [lapseChans]

/-! ## A channel under judging -/

/-- A channel after R59: in the sending set as it was, outside it IDLE or ending its attempt. -/
theorem lapseChan_access (b : Bool) (c : Chan) :
    (b = true ∧ lapseChan b c = c)
      ∨ (b = false ∧ ((lapseChan b c).access = .idle
          ∨ ((lapseChan b c).access = .sending ∧ c.access = .sending
              ∧ (lapseChan b c).committed = c.committed))) := by
  unfold lapseChan
  cases b
  · right
    refine ⟨rfl, ?_⟩
    simp only [Bool.false_eq_true, if_false]
    cases h : c.access
    · exact .inl h
    · exact .inl rfl
    · exact .inl rfl
    · exact .inr ⟨rfl, rfl, rfl⟩
  · exact .inl ⟨rfl, rfl⟩

/-- A channel after R58: in DEFER or BACKOFF only for an entry of the list. -/
theorem freeChan_cases (es : List Entry) (c : Chan) :
    (freeChan es c = c ∧ (c.access = .defer ∨ c.access = .backoff → inList es c.committed = true))
      ∨ (freeChan es c).access = .idle := by
  unfold freeChan
  split
  · exact .inr rfl
  · rename_i h
    refine .inl ⟨rfl, fun hc => ?_⟩
    by_contra hn
    exact h ⟨hc, by simpa using hn⟩

/-- A channel after R62: as it was, or committed to the first entry PENDING for it. -/
theorem commitChan_cases (b : Bool) (ch : Channel) (es : List Entry) (c : Chan) :
    (commitChan b ch es c = c
        ∧ (b = true → c.access = .idle → ∀ e ∈ es, statusOf e ch ≠ .pending))
      ∨ ∃ e, es.find? (fun e => statusOf e ch == .pending) = some e ∧ b = true ∧ c.access = .idle
          ∧ commitChan b ch es c
              = toDefer { c with committed := some e.serial, attempts := 0, lapsed := false } := by
  unfold commitChan
  split
  · rename_i hc
    simp only [Bool.and_eq_true, beq_iff_eq] at hc
    split
    · rename_i e he
      exact .inr ⟨e, he, hc.1, hc.2, rfl⟩
    · rename_i hn
      refine .inl ⟨rfl, fun _ _ e he => ?_⟩
      have := List.find?_eq_none.mp hn e he
      simpa using this
  · rename_i hc
    refine .inl ⟨rfl, fun hb ha => ?_⟩
    exact absurd (by simp [hb, ha]) hc

/-! ## The laws of a judged line -/

/-- What a change of the line must leave for judging to give the law of the send list: serial numbers
that tell entries apart, and channels committed to entries PENDING for them. -/
def ListFits (l : Line) : Prop :=
  (l.sendList.map (·.serial)).Nodup ∧ (∀ e ∈ l.sendList, e.serial < l.nextSerial)
    ∧ ∀ ch, (chanOf l ch).access ≠ .idle →
        ∃ n, (chanOf l ch).committed = some n ∧ n < l.nextSerial
          ∧ ∀ e ∈ l.sendList, e.serial = n → statusOf e ch = .pending

theorem inList_iff (es : List Entry) (n : Option Nat) :
    inList es n = true ↔ ∃ e ∈ es, n = some e.serial := by
  simp [inList]

theorem judgeLine_listFits {live : Bool} {l : Line} (h : ListFits l) :
    ListFits (judgeLine live l) := by
  obtain ⟨hnd, hlt, hc⟩ := h
  have hsub := remaining_sublist l
  refine ⟨?_, ?_, ?_⟩
  · rw [judgeLine_sendList]
    exact hnd.sublist (hsub.map _)
  · rw [judgeLine_sendList, judgeLine_nextSerial]
    exact fun e he => hlt e (hsub.subset he)
  · intro ch
    rw [judgeLine_sendList, judgeLine_nextSerial, judgeLine_chan]
    intro hacc
    rcases commitChan_cases (live && !l.barred && inSendingSet l ch) ch (remaining l)
      (freeChan (remaining l) (lapseChan (inSendingSet l ch) (chanOf l ch))) with ⟨heq, _⟩ | ⟨e, he, _, _, heq⟩
    · rw [heq] at hacc ⊢
      rcases freeChan_cases (remaining l) (lapseChan (inSendingSet l ch) (chanOf l ch)) with ⟨hf, _⟩ | hf
      · rw [hf] at hacc ⊢
        rcases lapseChan_access (inSendingSet l ch) (chanOf l ch) with ⟨_, hl⟩ | ⟨_, hl | ⟨_, hs, hl⟩⟩
        · rw [hl] at hacc ⊢
          obtain ⟨n, h1, h2, h3⟩ := hc ch hacc
          exact ⟨n, h1, h2, fun x hx => h3 x (hsub.subset hx)⟩
        · exact absurd hl hacc
        · rw [hl]
          obtain ⟨n, h1, h2, h3⟩ := hc ch (by simp [hs])
          exact ⟨n, h1, h2, fun x hx => h3 x (hsub.subset hx)⟩
      · exact absurd hf hacc
    · rw [heq]
      have hmem := List.mem_of_find?_eq_some he
      have hp := List.find?_some he
      refine ⟨e.serial, rfl, hlt e (hsub.subset hmem), ?_⟩
      intro x hx hser
      have hxe : x = e :=
        List.inj_on_of_nodup_map (f := Entry.serial) hnd (hsub.subset hx) (hsub.subset hmem) hser
      subst hxe
      simpa using hp

/-- A judged line whose list fits keeps both commitments as R62 gives. -/
theorem judgeLine_commitment {live : Bool} {l : Line} (h : ListFits l) (ch : Channel) :
    CommitmentFits (judgeLine live l) ch := by
  refine ⟨(judgeLine_listFits h).2.2 ch, ?_⟩
  rw [judgeLine_sendList, judgeLine_chan]
  rcases commitChan_cases (live && !l.barred && inSendingSet l ch) ch (remaining l)
    (freeChan (remaining l) (lapseChan (inSendingSet l ch) (chanOf l ch))) with ⟨heq, _⟩ | ⟨e, he, _, _, heq⟩
  · rw [heq]
    rcases freeChan_cases (remaining l) (lapseChan (inSendingSet l ch) (chanOf l ch)) with ⟨hf, hi⟩ | hf
    · rw [hf]
      exact hi
    · intro hc
      rw [hf] at hc
      rcases hc with hc | hc <;> exact absurd hc (by decide)
  · rw [heq]
    intro _
    rw [inList_iff]
    exact ⟨e, List.mem_of_find?_eq_some he, rfl⟩

/-- Nothing is left to do at once on a judged line (R59, R62). -/
theorem judgeLine_served (live : Bool) (l : Line) (ch : Channel) :
    ChanServed live (judgeLine live l) ch := by
  unfold ChanServed
  rw [judgeLine_inSendingSet, judgeLine_barred, judgeLine_sendList, judgeLine_chan]
  rcases commitChan_cases (live && !l.barred && inSendingSet l ch) ch (remaining l)
    (freeChan (remaining l) (lapseChan (inSendingSet l ch) (chanOf l ch))) with ⟨heq, hn⟩ | ⟨e, he, hb, _, heq⟩
  · rw [heq]
    refine ⟨fun hout => ?_, fun hl hbar hin hidle => ?_⟩
    · rcases freeChan_cases (remaining l) (lapseChan (inSendingSet l ch) (chanOf l ch)) with ⟨hf, _⟩ | hf
      · rw [hf]
        rcases lapseChan_access (inSendingSet l ch) (chanOf l ch) with ⟨ht, _⟩ | ⟨_, hx | ⟨hx, _⟩⟩
        · simp [hout] at ht
        · exact .inl hx
        · exact .inr hx
      · exact .inl hf
    · exact hn (by simp [hl, hbar, hin]) hidle
  · rw [heq]
    simp only [Bool.and_eq_true] at hb
    refine ⟨fun hout => ?_, fun _ _ _ hidle => ?_⟩
    · simp [hout] at hb
    · exact absurd hidle (by simp [toDefer])

/-- No entry that R60 makes leave stays in a judged line's list. -/
theorem judgeLine_left (live : Bool) (l : Line)
    (h : inSendingSet l .l = true ∨ inSendingSet l .h = true) :
    ∀ e ∈ (judgeLine live l).sendList, entryDone (judgeLine live l) e = false := by
  intro e he
  rw [judgeLine_sendList] at he
  rw [entryDone_congr (judgeLine_inSendingSet live l)]
  have hs : (inSendingSet l .l || inSendingSet l .h) = true := by simpa using h
  simp only [remaining, hs, if_true, List.mem_filter] at he
  simpa using he.2

/-- Judging keeps a channel's law (R53, R65). -/
theorem judgeLine_chanLaw (live : Bool) {l : Line} (ch : Channel) (h : ChanLaw (chanOf l ch)) :
    ChanLaw (chanOf (judgeLine live l) ch) := by
  obtain ⟨h1, h2, h3⟩ := h
  refine ⟨?_, ?_, ?_⟩
  · rw [judgeLine_state]
    intro hacc
    rw [judgeLine_chan] at hacc
    rcases commitChan_cases (live && !l.barred && inSendingSet l ch) ch (remaining l)
      (freeChan (remaining l) (lapseChan (inSendingSet l ch) (chanOf l ch))) with ⟨heq, _⟩ | ⟨e, _, hb, _, _⟩
    · rw [heq] at hacc
      rcases freeChan_cases (remaining l) (lapseChan (inSendingSet l ch) (chanOf l ch)) with ⟨hf, _⟩ | hf
      · rw [hf] at hacc
        rcases lapseChan_access (inSendingSet l ch) (chanOf l ch) with ⟨_, hl⟩ | ⟨_, hl | ⟨_, hs, _⟩⟩
        · rw [hl] at hacc
          exact h1 hacc
        · exact absurd hl hacc
        · exact h1 (by simp [hs])
      · exact absurd hf hacc
    · simp only [Bool.and_eq_true] at hb
      exact inSendingSet_state hb.2
  · simpa using h2
  · rw [judgeLine_recv]
    intro hacc
    rw [judgeLine_chan] at hacc
    rcases commitChan_cases (live && !l.barred && inSendingSet l ch) ch (remaining l)
      (freeChan (remaining l) (lapseChan (inSendingSet l ch) (chanOf l ch))) with ⟨heq, _⟩ | ⟨e, _, _, _, heq⟩
    · rw [heq] at hacc
      rcases freeChan_cases (remaining l) (lapseChan (inSendingSet l ch) (chanOf l ch)) with ⟨hf, _⟩ | hf
      · rw [hf] at hacc
        rcases lapseChan_access (inSendingSet l ch) (chanOf l ch) with ⟨_, hl⟩ | ⟨_, hl | ⟨_, hs, _⟩⟩
        · rw [hl] at hacc
          exact h3 hacc
        · rw [hl] at hacc
          exact absurd hacc (by decide)
        · exact h3 hs
      · rw [hf] at hacc
        exact absurd hacc (by decide)
    · rw [heq] at hacc
      simp [toDefer] at hacc

/-! ## The send list -/

theorem removeOldest_sublist (k : FrameKind) (es : List Entry) :
    (removeOldest k es).Sublist es := by
  induction es with
  | nil => exact List.Sublist.refl _
  | cons e rest ih =>
    unfold removeOldest
    split
    · exact List.sublist_cons_self _ _
    · exact ih.cons_cons _

/-- An entry of the kind being there, its removal shortens the list by one (R58). -/
theorem removeOldest_length {k : FrameKind} {es : List Entry} (h : ∃ e ∈ es, e.kind = k) :
    (removeOldest k es).length + 1 = es.length := by
  induction es with
  | nil =>
    obtain ⟨e, he, _⟩ := h
    simp at he
  | cons e rest ih =>
    unfold removeOldest
    split
    · simp
    · rename_i hk
      have h' : ∃ x ∈ rest, x.kind = k := by
        obtain ⟨x, hx, hxk⟩ := h
        rcases List.mem_cons.mp hx with rfl | hx
        · exact absurd hxk hk
        · exact ⟨x, hx, hxk⟩
      simp [ih h']

theorem makeRoom_sublist (l : Line) : (makeRoom l).sendList.Sublist l.sendList := by
  unfold makeRoom
  (repeat' split)
  · exact List.Sublist.refl _
  · exact removeOldest_sublist _ _
  · exact removeOldest_sublist _ _

/-- Overflow leaves a free place in a list of at most four entries (R58). -/
theorem makeRoom_length {l : Line} (h : l.sendList.length ≤ 4) :
    (makeRoom l).sendList.length ≤ 3 := by
  unfold makeRoom
  split
  · omega
  · split
    · rename_i hany
      have hx : ∃ e ∈ l.sendList, e.kind = .presence := by
        simpa [List.any_eq_true] using hany
      have := removeOldest_length hx
      simp only
      omega
    · rename_i hlen hany
      have hx : ∃ e ∈ l.sendList, e.kind = .report := by
        cases hl : l.sendList with
        | nil => simp [hl] at hlen
        | cons e rest =>
          refine ⟨e, by simp, ?_⟩
          cases hk : e.kind
          · rfl
          · exfalso
            apply hany
            simp [hl, hk]
      have := removeOldest_length hx
      simp only
      omega

/-- Overflow touches the list and the report outcome alone. -/
theorem makeRoom_frame (l : Line) :
    (makeRoom l).l = l.l ∧ (makeRoom l).h = l.h ∧ (makeRoom l).barred = l.barred
      ∧ (makeRoom l).filter = l.filter ∧ (makeRoom l).nextSerial = l.nextSerial := by
  unfold makeRoom
  (repeat' split) <;> exact ⟨rfl, rfl, rfl, rfl, rfl⟩

/-- The entries of the list once one has joined. -/
theorem mem_insertEntry {e x : Entry} {es : List Entry} :
    x ∈ insertEntry e es ↔ x = e ∨ x ∈ es := by
  unfold insertEntry
  cases e.kind
  · simp only [List.mem_append, List.mem_filter, List.mem_cons, beq_iff_eq]
    constructor
    · rintro (⟨h, _⟩ | rfl | ⟨h, _⟩)
      · exact .inr h
      · exact .inl rfl
      · exact .inr h
    · rintro (rfl | h)
      · exact .inr (.inl rfl)
      · cases hk : x.kind
        · exact .inl ⟨h, rfl⟩
        · exact .inr (.inr ⟨h, rfl⟩)
  · simp [or_comm]

theorem insertEntry_length (e : Entry) (es : List Entry) :
    (insertEntry e es).length = es.length + 1 := by
  unfold insertEntry
  cases e.kind
  · simp only [List.length_append, List.length_cons]
    have : (es.filter fun x => x.kind == .report).length
        + (es.filter fun x => x.kind == .presence).length = es.length := by
      induction es with
      | nil => rfl
      | cons a rest ih => cases hk : a.kind <;> simp [hk] <;> omega
    omega
  · simp

/-- The list stays in list order as an entry joins (R57). -/
theorem insertEntry_order {e : Entry} {es : List Entry} (h : ReportsFirst es) :
    ReportsFirst (insertEntry e es) := by
  unfold insertEntry ReportsFirst
  cases hk : e.kind
  · rw [List.pairwise_append]
    refine ⟨?_, ?_, ?_⟩
    · exact h.sublist List.filter_sublist
    · rw [List.pairwise_cons]
      refine ⟨fun a ha => ?_, h.sublist List.filter_sublist⟩
      intro hp
      rw [hk] at hp
      exact absurd hp (by decide)
    · intro a ha b _ hp
      simp only [List.mem_filter, beq_iff_eq] at ha
      rw [ha.2] at hp
      exact absurd hp (by decide)
  · rw [List.pairwise_append]
    refine ⟨h, List.pairwise_singleton _ _, ?_⟩
    intro a _ b hb _
    simp only [List.mem_singleton] at hb
    rw [hb, hk]

end Sys2Proof.Machine
end

