-- ==== Sys2Proof/Laws/Store.lean ====
section
/-! SUPPORT. The Record Store: what each operation on it can do, that every one of them keeps its
canonical form, and reading after writing (R126 to R137). -/

namespace Sys2Proof.Machine

/-! ## The page at the write position -/

theorem writePage_exists {t : Store} (h : PagesLaw t) : ∃ p, t.pages[t.writePage]? = some p :=
  ⟨_, List.getElem?_eq_getElem (by rw [h.1]; exact h.2.1)⟩

/-- While the store is open, the page at the write position is EMPTY with slot 0 next, or FILLING with
as many records as the slot's number (R127). -/
theorem open_page {t : Store} (h : PagesLaw t) (ho : storeBlocked t = false) {p : Page}
    (hp : t.pages[t.writePage]? = some p) :
    p.records.length = t.writeSlot ∧ t.writeSlot ≤ 15 := by
  obtain ⟨_, _, hf, hw⟩ := h
  have hfit := hf p (List.mem_of_getElem? hp)
  have hpos := hw _ _ hp
  simp only [storeBlocked, writePageOf, hp] at ho
  simp only [if_true] at hpos
  unfold PageFits at hfit
  cases hs : p.state <;> simp [hs] at hfit hpos ho ⊢
  · simp [hfit, hpos]
  · omega

/-! ## Writing one record -/

/-- What `writeRecord` does to the page at the write position. -/
theorem writeRecord_eq {t : Store} {p : Page} (r : Record) (hp : t.pages[t.writePage]? = some p) :
    writeRecord r t =
      if t.writeSlot = 15 then
        { t with
          pages := t.pages.set t.writePage ⟨.sealed, p.records ++ [r]⟩
          writePage := (t.writePage + 1) % 16
          writeSlot := 0 }
      else
        { t with
          pages := t.pages.set t.writePage ⟨.filling, p.records ++ [r]⟩
          writeSlot := t.writeSlot + 1 } := by
  simp [writeRecord, writePageOf, hp]

@[simp] theorem writeRecord_held (r : Record) (t : Store) : (writeRecord r t).held = t.held := by
  unfold writeRecord
  (repeat' split) <;> rfl

/-- A write to an open store keeps the pages' canonical form (R128, R129). -/
theorem writeRecord_keeps {t : Store} (r : Record) (h : PagesLaw t) (ho : storeBlocked t = false) :
    PagesLaw (writeRecord r t) := by
  obtain ⟨p, hp⟩ := writePage_exists h
  have hpage := open_page h ho hp
  obtain ⟨hlen, hlt, hf, hw⟩ := h
  have hother : ∀ n q, t.pages[n]? = some q → n ≠ t.writePage → q.state ≠ .filling := by
    intro n q hq hn
    simpa [hn] using hw n q hq
  rw [writeRecord_eq r hp]
  split
  · rename_i h15
    refine ⟨by simp [hlen], Nat.mod_lt _ (by omega), ?_, ?_⟩
    · intro q hq
      rcases List.mem_or_eq_of_mem_set hq with hq | rfl
      · exact hf q hq
      · simp [PageFits, hpage.1, h15]
    · intro n q hq
      dsimp only at hq ⊢
      rw [List.getElem?_set] at hq
      by_cases hn : t.writePage = n
      · subst hn
        simp [hlen, hlt] at hq
        subst hq
        rw [if_neg (by omega)]
        simp
      · rw [if_neg hn] at hq
        have := hother n q hq (Ne.symm hn)
        simp [this]
  · refine ⟨by simp [hlen], hlt, ?_, ?_⟩
    · intro q hq
      rcases List.mem_or_eq_of_mem_set hq with hq | rfl
      · exact hf q hq
      · simp [PageFits, hpage.1]
        omega
    · intro n q hq
      dsimp only at hq ⊢
      rw [List.getElem?_set] at hq
      by_cases hn : t.writePage = n
      · subst hn
        simp [hlen, hlt] at hq
        subst hq
        simp [hpage.1]
      · rw [if_neg hn] at hq
        have := hother n q hq (Ne.symm hn)
        simp [this, Ne.symm hn]

/-- A write that does not seal the page leaves the store open (R128). -/
theorem writeRecord_open {t : Store} (r : Record) (h : PagesLaw t) (h15 : t.writeSlot < 15) :
    storeBlocked (writeRecord r t) = false ∧ (writeRecord r t).writeSlot = t.writeSlot + 1
      ∧ (writeRecord r t).writePage = t.writePage := by
  obtain ⟨p, hp⟩ := writePage_exists h
  rw [writeRecord_eq r hp, if_neg (by omega)]
  refine ⟨?_, rfl, rfl⟩
  have hlt : t.writePage < t.pages.length := by rw [h.1]; exact h.2.1
  simp [storeBlocked, writePageOf, hlt]

/-- The record written is read back at the write position (R128, R137). -/
theorem recordAt_writeRecord_same {t : Store} (r : Record) (h : PagesLaw t)
    (ho : storeBlocked t = false) :
    recordAt (writeRecord r t) t.writePage t.writeSlot = some r := by
  obtain ⟨p, hp⟩ := writePage_exists h
  have hpage := open_page h ho hp
  have hlt : t.writePage < t.pages.length := by rw [h.1]; exact h.2.1
  rw [writeRecord_eq r hp]
  split <;> simp [recordAt, hlt, ← hpage.1]

/-- Every other slot reads as before a write (R128, R137). -/
theorem recordAt_writeRecord_other {t : Store} (r : Record) (h : PagesLaw t)
    (ho : storeBlocked t = false) {page slot : Nat}
    (hne : ¬ (page = t.writePage ∧ slot = t.writeSlot)) :
    recordAt (writeRecord r t) page slot = recordAt t page slot := by
  obtain ⟨p, hp⟩ := writePage_exists h
  have hpage := open_page h ho hp
  have hlt : t.writePage < t.pages.length := by rw [h.1]; exact h.2.1
  have key : ∀ st : PageState,
      recordAt { t with pages := t.pages.set t.writePage ⟨st, p.records ++ [r]⟩ } page slot
        = recordAt t page slot := by
    intro st
    simp only [recordAt]
    rw [List.getElem?_set]
    by_cases hn : t.writePage = page
    · subst hn
      have hs : slot ≠ p.records.length := by
        rw [hpage.1]
        exact fun e => hne ⟨rfl, e⟩
      simp only [if_true, hlt, hp]
      rcases Nat.lt_or_ge slot p.records.length with hl | hl
      · rw [List.getElem?_append_left hl]
      · rw [List.getElem?_eq_none (by simp; omega), List.getElem?_eq_none hl]
    · simp only [hn, if_false]
  rw [writeRecord_eq r hp]
  split
  · exact key _
  · exact key _

/-! ## The held list -/

/-- A merged entry keeps its band (R131). -/
@[simp] theorem mergeRecord_band (a b : Record) : (mergeRecord a b).band = a.band := rfl

/-- The bands of the held list after a record joins it: as before, with the new band last where it was
not held (R130). -/
theorem holdRecord_bands (r : Record) (l : List Record) :
    (holdRecord r l).map (·.band) =
      if r.band ∈ l.map (·.band) then l.map (·.band) else l.map (·.band) ++ [r.band] := by
  induction l with
  | nil => simp [holdRecord]
  | cons e rest ih =>
    unfold holdRecord
    split
    · rename_i h
      simp [h]
    · rename_i h
      have h' : ¬ r.band = e.band := fun x => h x.symm
      simp only [List.map_cons, ih, List.mem_cons, h', false_or]
      split <;> simp

theorem holdRecord_nodup (r : Record) {l : List Record} (h : (l.map (·.band)).Nodup) :
    ((holdRecord r l).map (·.band)).Nodup := by
  rw [holdRecord_bands]
  split
  · exact h
  · rename_i hn
    rw [List.nodup_append]
    refine ⟨h, List.nodup_singleton _, ?_⟩
    intro a ha b hb
    simp only [List.mem_singleton] at hb
    subst hb
    exact fun e => hn (e ▸ ha)

/-- Five band codes bound a list of records of different bands (R130). -/
theorem held_length {l : List Record} (h : (l.map (·.band)).Nodup) : l.length ≤ 5 := by
  have hsub : (l.map (·.band)) ⊆ [Band.b0, .b1, .b2, .b3, .unbanded] := by
    intro b _
    cases b <;> simp
  have := (List.subperm_of_subset h hsub).length_le
  simpa using this

/-! ## A record reaches the store -/

/-- Every record handed over is held, or written, and nothing else of the store changes (R128, R130). -/
theorem putRecord_store (r : Record) (s : State) :
    (putRecord r s).store =
      if storeBlocked s.store then { s.store with held := holdRecord r s.store.held }
      else writeRecord r s.store := by
  unfold putRecord
  split <;> rfl

/-- A record handed over keeps the store's canonical form. -/
theorem putRecord_keeps (r : Record) {s : State} (h : StoreLaw s.store) :
    StoreLaw (putRecord r s).store := by
  obtain ⟨hp, hn, hh⟩ := h
  rw [putRecord_store]
  split
  · rename_i hb
    exact ⟨hp, holdRecord_nodup r hn, fun _ => hb⟩
  · rename_i hb
    have hb' : storeBlocked s.store = false := by simpa using hb
    have hheld : s.store.held = [] := by
      by_contra hne
      exact hb (hh hne)
    exact ⟨writeRecord_keeps r hp hb', by simp [hheld], by simp [hheld]⟩

/-! ## Releasing a page -/

/-- A flush of records that fit in the page at the write position keeps the pages' form, leaves the
store open and the held list as it was, and moves the write position past the last record (R135). -/
theorem flushRecords_keeps (rs : List Record) {s : State} (h : PagesLaw s.store)
    (ho : storeBlocked s.store = false) (hfit : s.store.writeSlot + rs.length ≤ 15) :
    PagesLaw (flushRecords rs s).store ∧ storeBlocked (flushRecords rs s).store = false
      ∧ (flushRecords rs s).store.held = s.store.held
      ∧ (flushRecords rs s).store.writeSlot = s.store.writeSlot + rs.length
      ∧ (flushRecords rs s).store.writePage = s.store.writePage := by
  induction rs generalizing s with
  | nil => exact ⟨h, ho, rfl, rfl, rfl⟩
  | cons r rest ih =>
    simp only [List.length_cons] at hfit
    have hw := writeRecord_open r h (by omega)
    have hk := writeRecord_keeps r h ho
    have := ih (s := { s with
                       store := writeRecord r s.store
                       alerts := writeAlerts (writeRecord r s.store) s.alerts })
      hk hw.1 (by simp only [hw.2.1]; omega)
    simp only [hw.2.1, hw.2.2, writeRecord_held] at this
    refine ⟨this.1, this.2.1, this.2.2.1, ?_, this.2.2.2.2⟩
    simp only [List.length_cons]
    have h4 := this.2.2.2.1
    simp only [flushRecords]
    omega

/-- A SEALED page made EMPTY keeps the pages' form (R134). -/
theorem emptyPage_keeps {t : Store} (n : Nat) (h : PagesLaw t) {p : Page}
    (hp : t.pages[n]? = some p) (hs : p.state = .sealed) : PagesLaw (emptyPage n t) := by
  obtain ⟨hlen, hlt, hf, hw⟩ := h
  refine ⟨by simp [emptyPage, hlen], hlt, ?_, ?_⟩
  · intro q hq
    rcases List.mem_or_eq_of_mem_set hq with hq | rfl
    · exact hf q hq
    · simp [PageFits]
  · intro k q hq
    dsimp only [emptyPage] at hq ⊢
    rw [List.getElem?_set] at hq
    by_cases hk : n = k
    · subst hk
      have hn : n < t.pages.length := (List.getElem?_eq_some_iff.mp hp).1
      simp [hn] at hq
      subst hq
      have := hw n p hp
      by_cases hwp : n = t.writePage
      · simp [hwp, hs] at this ⊢
        exact this
      · simp [hwp]
    · rw [if_neg hk] at hq
      exact hw k q hq

/-- A release of a SEALED page keeps the store's canonical form (R134, R135). -/
theorem releaseSealed_keeps (n : Nat) {s : State} (h : StoreLaw s.store) {p : Page}
    (hp : s.store.pages[n]? = some p) (hs : p.state = .sealed) :
    StoreLaw (releaseSealed n s).store := by
  obtain ⟨hpg, hnd, hh⟩ := h
  have he := emptyPage_keeps n hpg hp hs
  have hn : n < s.store.pages.length := (List.getElem?_eq_some_iff.mp hp).1
  unfold releaseSealed
  dsimp only
  split
  · rename_i hw
    subst hw
    have hslot : s.store.writeSlot = 0 := by simpa [hs] using hpg.2.2.2 _ _ hp
    have hl := held_length hnd
    have := flushRecords_keeps s.store.held
      (s := { s with store := { emptyPage s.store.writePage s.store with held := [] } })
      he (by simp [storeBlocked, writePageOf, emptyPage, hn]) (by simp [emptyPage, hslot]; omega)
    refine ⟨this.1, ?_, ?_⟩
    · simp [this.2.2.1]
    · simp [this.2.2.1]
  · rename_i hw
    refine ⟨he, hnd, fun hne => ?_⟩
    have := hh hne
    simpa [storeBlocked, writePageOf, emptyPage, List.getElem?_set, hw] using this

/-! ## Reset -/

theorem reset_pages : PagesLaw State.reset.store := by
  refine ⟨rfl, by decide, ?_, ?_⟩
  · intro p hp
    have := List.eq_of_mem_replicate hp
    subst this
    rfl
  · intro n p hp
    have := List.eq_of_mem_replicate (List.mem_of_getElem? hp)
    subst this
    split
    · rfl
    · simp

/-- The store of power-on reset has its canonical form (R142). -/
theorem reset_store_law : StoreLaw State.reset.store :=
  ⟨reset_pages, by decide, fun h => absurd rfl h⟩

end Sys2Proof.Machine
end

