-- ==== Sys2Proof/Laws/Steps.lean ====
section
/-! SUPPORT. What a step can do to each part of the state: for each block, a property that the named
operations on it keep is kept by every step. -/

namespace Sys2Proof.Machine

/-- A step idles on an empty queue, and otherwise runs the command at the front. -/
theorem step_cases {s t : State} (h : step s = .next t) :
    (s.pending = [] ∧ t = s)
      ∨ ∃ i rest, s.pending = i :: rest ∧ exec i { s with pending := rest } = .next t := by
  unfold step at h
  split at h
  · rename_i hp
    simp only [Host.Outcome.next.injEq] at h
    exact .inl ⟨hp, h.symm⟩
  · rename_i i rest hp
    exact .inr ⟨i, rest, hp, h⟩

/-- Where nothing is due, taking what is due changes nothing. -/
theorem takeDue_of_nothingDue {s : State} (h : nothingDue s = true) : takeDue s = s := by
  unfold nothingDue at h
  unfold takeDue
  split
  · rfl
  · rename_i c hc
    simp only [hc, Bool.and_eq_true, Bool.not_eq_true'] at h
    simp [takeDueBlock, h.1, takeDueBoundary, h.2]

/-- Once a due block close is taken none is due. -/
theorem blockDue_takeDueBlock (c : Setup) (s : State) : blockDue (takeDueBlock c s) = false := by
  unfold takeDueBlock
  split
  · simp [blockDue, closeBlock, closeNetting]
  · exact Bool.eq_false_iff.mpr ‹_›

/-- Taking a due block close a second time changes nothing. -/
theorem takeDueBlock_idem (c : Setup) (s : State) :
    takeDueBlock c (takeDueBlock c s) = takeDueBlock c s :=
  if_neg (by simp [blockDue_takeDueBlock])

/-- Where nothing is due and no window either, taking all that is due changes nothing. -/
theorem takeAllDue_of_nothingDue {c : Setup} {s : State} (h : nothingDue s = true)
    (hw : windowDue c s = false) : takeAllDue c s = s := by
  simp [takeAllDue, takeDue_of_nothingDue h, takeDueWindow, hw]

/-- The state a command leaves: the definitions that the arms of `exec` call, as one function. -/
def after : Instr → State → State
  | .sampleSetFrame bytes n b, s => sampleArrives bytes n b (takeDue s)
  | .watchdogExpiry, s => watchdogExpires (takeDue s)
  | .blockClose, s => blockCloses s
  | .countCompleteBoundary, s =>
    match s.config with
    | none => s
    | some c =>
      if countComplete s && s.supply.op == .run then countBoundary c (takeDueBlock c s) else s
  | .unalignedBoundary, s =>
    match s.config with
    | none => s
    | some c =>
      if countComplete s && s.supply.op == .resync then unalignedClose c (takeDueBlock c s) else s
  | .windowClose, s =>
    match s.config with
    | none => s
    | some c => takeDueWindow c s
  | .receptionStart ch, s => receptionStarts ch (takeDue s)
  | .completeFrame ch bytes, s => frameCompletes ch bytes (takeDue s)
  | .malformedReception ch, s => malformedEnds ch (takeDue s)
  | .receptionTimeout ch, s => timeoutEnds ch (takeDue s)
  | .receiveReady ch, s => becomesReady ch (takeDue s)
  | .carrierSenseChange ch b, s => carrierChanges ch b (takeDue s)
  | .quietGap ch, s => gapCompletes ch (takeDue s)
  | .backoffEnd ch, s => backoffEnds ch (takeDue s)
  | .echo ch b x, s => echoArrives ch b x (takeDue s)
  | .missingEcho ch, s => echoMissing ch (takeDue s)
  | .jabberGuard ch, s => guardTrips ch (takeDue s)
  | .cutoffSample b, s => unlessHeld (cutoffSampled b) (takeDue s)
  | .holdEntry b, s => unlessHeld (pfwActive b) (takeDue s)
  | .pfwInactive, s =>
    if s.supply.op = .hold ∧ s.supply.pfw = true then
      { s with supply := { s.supply with pfw := false, release := some releaseTicks } }
    else s
  | .releaseTimer, s =>
    if s.supply.op = .hold ∧ s.supply.release.isSome = true then holdIfWarned (leaveHold s) else s
  | .powerOnReset r, s => resetPhase r (clearedPart s)
  | .resetn r, s => resetPart r (takeDue s)
  | .loadConfig block, s =>
    if block.length < 126 then csnRises s else served (loadConfigActs (block.take 126)) (takeDue s)
  | .readStatus, s => served readStatusActs (takeDue s)
  | .readTotals, s => served readTotalsActs (takeDue s)
  | .readRecord p q, s => served (readRecordActs p q) (takeDue s)
  | .releasePage p, s => served (releasePageActs p) (takeDue s)
  | .writeLines m v, s => served (writeLinesActs m v) (takeDue s)
  | .releaseCutoff, s => served releaseCutoffActs (takeDue s)
  | .readAlert, s => served readAlertActs (takeDue s)
  | .ackAlert b, s => served (ackAlertActs b) (takeDue s)
  | .setMask m, s => served (setMaskActs m) (takeDue s)
  | .setDayPosition d i e, s => served (setDayPositionActs d i e) (takeDue s)
  | .readPeer p, s => served (readPeerActs p) (takeDue s)
  | .enableChannel x y, s => served (enableChannelActs x y) (takeDue s)
  | .resync, s => served resyncActs (takeDue s)
  | .unknownCommand b, s => served (unknownActs b) s
  | .discardedTransaction (.begun taken), s => served (transactionBegins taken) s
  | .discardedTransaction (.beforeActing _), s => csnRises s
  | .discardedTransaction .afterwards, s => csnRises s
  | .pfwActiveInHold, s =>
    if s.supply.op = .hold then
      { s with supply := { s.supply with pfw := true, release := none } }
    else s

/-- Every command answers the state it leaves. -/
theorem exec_after (i : Instr) (s : State) : exec i s = .next (after i s) := by
  cases i <;> try rfl
  all_goals simp only [exec, after]
  case countCompleteBoundary => unfold execCountCompleteBoundary; cases s.config <;> dsimp only; split <;> rfl
  case unalignedBoundary => unfold execUnalignedBoundary; cases s.config <;> dsimp only; split <;> rfl
  case windowClose => unfold execWindowClose; cases s.config <;> rfl
  case pfwInactive => unfold execPfwInactive; split <;> rfl
  case releaseTimer => unfold execReleaseTimer; split <;> rfl
  case loadConfig block => unfold execLoadConfig; split <;> rfl
  case discardedTransaction csn => cases csn <;> rfl
  case pfwActiveInHold => unfold execPfwActiveInHold; split <;> rfl

/-- Where the port does not serve, a row of the host has no effect but for the level of CSN. -/
theorem served_cases {p : State → Prop} {f : State → State} {s : State} (h : p (csnFalls s))
    (hf : p (f s)) :
    p (served f s) := by
  unfold served
  split
  · exact hf
  · exact h

/-- Where a reset is held, an event of a pin has no effect. -/
theorem unlessHeld_cases {p : State → Prop} {f : State → State} {s : State} (h : p s) (hf : p (f s)) :
    p (unlessHeld f s) := by
  unfold unlessHeld
  split
  · exact h
  · exact hf

/-- A property that does not read the queue and that every command keeps is kept by every step. -/
theorem kept_of_after {p : State → Prop} (hq : ∀ s q, p s → p { s with pending := q })
    (ha : ∀ i s, p s → p (after i s)) : KeptByStep p := by
  intro s t hs h
  rcases step_cases h with ⟨_, rfl⟩ | ⟨i, rest, _, h⟩
  · exact hs
  · rw [exec_after] at h
    simp only [Host.Outcome.next.injEq] at h
    exact h ▸ ha i _ (hq s rest hs)

/-! ## The Record Store -/

section Store

variable {p : Store → Prop} (hput : ∀ r (s : State), p s.store → p (putRecord r s).store)

include hput

theorem store_closeWindow {c : Setup} {s : State} (h : p s.store) : p (closeWindow c s).store := by
  unfold closeWindow
  split
  · exact hput _ _ h
  · exact h

theorem store_earlyClose {c : Setup} {k : EarlyCause} {s : State} (h : p s.store) :
    p (earlyClose c k s).store := by
  have h1 : p (settleOpenWindow c (closeOpenBlock c (k != .hold) s)).store := by
    unfold settleOpenWindow
    split
    · exact store_closeWindow hput (by simpa using h)
    · simpa using h
  simpa [earlyClose] using hput _ _ h1

theorem store_takeDueBoundary {c : Setup} {s : State} (h : p s.store) :
    p (takeDueBoundary c s).store := by
  unfold takeDueBoundary
  split
  · split
    · simpa using h
    · simpa [unalignedClose] using hput _ _ h
  · exact h

theorem store_takeDueWindow {c : Setup} {s : State} (h : p s.store) :
    p (takeDueWindow c s).store := by
  unfold takeDueWindow
  split
  · simpa [windowCloses] using store_closeWindow hput h
  · exact h

theorem store_takeDue {s : State} (h : p s.store) : p (takeDue s).store := by
  unfold takeDue
  split
  · exact h
  · exact store_takeDueBoundary hput (by simpa using h)

theorem store_takeAllDue {c : Setup} {s : State} (h : p s.store) : p (takeAllDue c s).store :=
  store_takeDueWindow hput (store_takeDue hput h)

theorem store_missingSet {c : Setup} {s : State} (h : p s.store) : p (missingSet c s).store := by
  simpa [missingSet] using store_takeAllDue hput h

theorem store_missingSets {c : Setup} (k : Nat) {s : State} (h : p s.store) :
    p (missingSets c k s).store := by
  induction k generalizing s with
  | zero => exact h
  | succ k ih => exact ih (store_missingSet hput h)

theorem store_takeFrame {c : Setup} {bytes : List Byte} {s : State} (h : p s.store) :
    p (takeFrame c bytes s).store := by
  unfold takeFrame
  dsimp only
  split
  · simpa [receivedSet] using store_takeAllDue hput h
  · split
    · simpa [receivedSet] using store_takeAllDue hput (store_missingSets hput _ h)
    · exact h

theorem store_enterHold {b : Bool} {s : State} (h : p s.store) : p (enterHold b s).store := by
  show p (holdClose s).store
  unfold holdClose
  split
  · exact h
  · split
    · exact store_earlyClose hput h
    · exact h

theorem store_holdIfWarned {s : State} (h : p s.store) : p (holdIfWarned s).store := by
  unfold holdIfWarned
  split
  · exact store_enterHold hput h
  · exact h

theorem store_passOn {c : Setup} {ch : Channel} {f : GroupFrame} {s : State} (h : p s.store) :
    p (passOn c ch f s).store := by
  unfold passOn
  split
  · exact h
  · unfold offerTiming
    split
    · exact h
    · split
      · exact h
      · simpa [adopt] using store_earlyClose hput h
  · exact h
  · exact h

/-- Every step keeps a property of the store that handing over a record keeps, a release of a SEALED
page keeps, and the store after power-on reset has. -/
theorem store_kept (hrel : ∀ (n : Nat) (s : State) (q : Page), p s.store → s.store.pages[n]? = some q →
      q.state = .sealed → p (releaseSealed n s).store)
    (hreset : p Store.reset) : KeptByStep fun s => p s.store := by
  refine kept_of_after (fun _ _ h => h) ?_
  intro i s h
  have hd : p (takeDue s).store := store_takeDue hput h
  cases i <;> simp only [after]
  all_goals first
    | simpa using hd
    | simpa using h
    | skip
  case sampleSetFrame =>
    unfold sampleArrives
    split
    · exact hd
    · split
      · exact hd
      · exact store_takeFrame hput hd
  case watchdogExpiry =>
    unfold watchdogExpires
    split
    · exact hd
    · split
      · simpa using store_missingSet hput hd
      · exact hd
  case countCompleteBoundary =>
    split
    · exact h
    · split <;> simpa using h
  case unalignedBoundary =>
    split
    · exact h
    · split
      · simpa [unalignedClose] using hput _ (takeDueBlock _ s) (by simpa using h)
      · exact h
  case windowClose =>
    split
    · exact h
    · exact store_takeDueWindow hput h
  case completeFrame =>
    unfold frameCompletes
    split
    · exact hd
    · split
      · split
        · simpa using hd
        · split
          · unfold judgeFrame
            split
            all_goals first
              | simpa using hd
              | (simp only [acceptFrame]; exact store_passOn hput (by simpa using hd))
          · exact hd
      · exact hd
  case holdEntry =>
    refine unlessHeld_cases (p := fun t => p t.store) hd ?_
    unfold pfwActive
    split
    · exact hd
    · exact store_enterHold hput hd
  case pfwInactive => split <;> exact h
  case pfwActiveInHold => split <;> exact h
  case releaseTimer =>
    split
    · exact store_holdIfWarned hput (by simpa using h)
    · exact h
  case powerOnReset => simpa using (show p (clearedPart s).store from hreset)
  case resetn => simpa [resetPart] using (show p (retainedPart (takeDue s)).store from hd)
  case discardedTransaction csn => cases csn <;> simpa using h
  case loadConfig =>
    split
    · simpa using h
    · refine served_cases (p := fun t => p t.store) hd ?_
      unfold loadConfigActs
      dsimp only
      split
      · split
        · simpa using hd
        · simpa using store_holdIfWarned hput (s := configAccepted _ (takeDue s)) (by simpa using hd)
      · simpa using hd
  case releasePage =>
    refine served_cases (p := fun t => p t.store) hd ?_
    unfold releasePageActs
    dsimp only
    split
    · simpa using hd
    · split
      · simpa using hd
      · rename_i q hq
        split
        · rename_i hs
          simpa using hrel _ _ q hd hq hs
        · simpa using hd
        · simpa using hd
  case setDayPosition =>
    refine served_cases (p := fun t => p t.store) hd ?_
    unfold setDayPositionActs
    dsimp only
    (repeat' split)
    all_goals first
      | simpa using hd
      | skip
    unfold presetPosition
    dsimp only
    split <;> simpa using store_earlyClose hput hd
  case resync =>
    refine served_cases (p := fun t => p t.store) hd ?_
    unfold resyncActs
    (repeat' split)
    all_goals first
      | simpa using hd
      | skip
    simpa [resyncFromRun] using store_earlyClose hput hd

end Store

end Sys2Proof.Machine
end

