-- ==== Sys2Proof/Laws/LimiterSteps.lean ====
section
/-! SUPPORT. What a step can do to the Export Limiter: a property of it, under the accepted
configuration, that its named operations keep is kept by every step. -/

namespace Sys2Proof.Machine

/-- The operations on the limiter, each keeping a property `p` of it under the configuration. -/
structure LimiterClosed (p : Option Setup → Limiter → Prop) : Prop where
  judge : ∀ c live net e, p (some c) e → p (some c) (judgeBlock c live net e)
  start : ∀ k e, p k e → p k (startFlags e)
  hand : ∀ c n e, p (some c) e → (c.baseCap ≤ c.ceilingCap → c.baseCap ≤ n ∧ n ≤ c.ceilingCap) →
    p (some c) (handCap n e)
  sample : ∀ k b live e, p k e → p k (sampleLimiter b live e)
  hold : ∀ k e, p k e → p k (limiterHold e)
  settle : ∀ k e, p k e → p k { e with settling := true }
  release : ∀ k e, p k e → p k { e with cutoffLatch := false, settling := true }
  latch : ∀ c new e, p (some c) e → p (some c) (writeLatch c new e)
  accept : ∀ k c e, p k e → c.baseCap ≤ c.ceilingCap →
    p (some c) { e with effectiveCap := some c.baseCap, pendingCap := none }
  reset : p none Limiter.reset

/-- A block that passes the checks has its base cap at most its ceiling cap (R145, index 11). -/
theorem passed_caps {block : List Byte} {q : Option Nat} (h : configFailure block q = none) :
    (configSetup block).baseCap ≤ (configSetup block).ceilingCap := by
  unfold configFailure at h
  rw [Option.map_eq_none_iff, List.find?_eq_none] at h
  have := h (11, decide (fieldAt block 41 5 ≤ fieldAt block 46 5)) (by simp [configChecks])
  simpa [configSetup] using this

section Limiter

variable {p : Option Setup → Limiter → Prop} (hc : LimiterClosed p)

/-- A settled cap lies between the base cap and the ceiling cap (R97, R98). -/
theorem settledCap_between (c : Setup) (own : Int) (nets : List Int) (h : c.baseCap ≤ c.ceilingCap) :
    c.baseCap ≤ settledCap c own nets ∧ settledCap c own nets ≤ c.ceilingCap := by
  unfold settledCap
  split
  · exact ⟨le_refl _, h⟩
  · exact ⟨le_min (Nat.le_add_right _ _) h, min_le_right _ _⟩

include hc

theorem limiter_closeBlock {c : Setup} {j : Bool} {s : State} (h : p (some c) s.el) :
    p (some c) (closeBlock c j s).el := by
  unfold closeBlock
  dsimp only
  split
  · exact hc.judge _ _ _ _ h
  · exact h

theorem limiter_closeOpenBlock {c : Setup} {j : Bool} {s : State} (h : p (some c) s.el) :
    p (some c) (closeOpenBlock c j s).el := by
  unfold closeOpenBlock
  split
  · exact h
  · exact limiter_closeBlock hc h

theorem limiter_closeWindow {c : Setup} {s : State} (h : p (some c) s.el) :
    p (some c) (closeWindow c s).el := by
  unfold closeWindow
  split
  · simpa [settleWindow] using hc.hand _ _ _ h (settledCap_between c _ _)
  · exact h

theorem limiter_settleOpenWindow {c : Setup} {s : State} (h : p (some c) s.el) :
    p (some c) (settleOpenWindow c s).el := by
  unfold settleOpenWindow
  split
  · exact limiter_closeWindow hc h
  · exact h

theorem limiter_earlyClose {c : Setup} {k : EarlyCause} {s : State} (h : p (some c) s.el) :
    p (some c) (earlyClose c k s).el := by
  have h1 := limiter_settleOpenWindow hc
    (limiter_closeOpenBlock hc (j := k != .hold) h)
  unfold earlyClose soloEffects
  dsimp only
  split
  · simpa using hc.hand c c.baseCap _ h1 (fun hb => ⟨le_refl _, hb⟩)
  · simpa using h1

theorem limiter_beginInterval {c : Setup} {k : Option Setup} {id : IntervalId} {e : Nat} {b : Band}
    {s : State} (h : p k s.el) : p k (beginInterval c id e b s).el :=
  hc.start _ _ h

theorem limiter_takeDueBlock {c : Setup} {s : State} (h : p (some c) s.el) :
    p (some c) (takeDueBlock c s).el := by
  unfold takeDueBlock
  split
  · exact limiter_closeBlock hc h
  · exact h

theorem limiter_countBoundary {c : Setup} {k : Option Setup} {s : State} (h : p k s.el) :
    p k (countBoundary c s).el := by
  have : (countBoundary c s).el = startFlags s.el := by
    simp [countBoundary, beginInterval, clearInterval]
  rw [this]
  exact hc.start _ _ h

theorem limiter_unalignedClose {c : Setup} {k : Option Setup} {s : State} (h : p k s.el) :
    p k (unalignedClose c s).el := by
  have : (unalignedClose c s).el = startFlags s.el := by
    simp [unalignedClose, beginInterval]
  rw [this]
  exact hc.start _ _ h

theorem limiter_takeDueBoundary {c : Setup} {s : State} (h : p (some c) s.el) :
    p (some c) (takeDueBoundary c s).el := by
  unfold takeDueBoundary
  split
  · split
    · exact limiter_countBoundary hc h
    · exact limiter_unalignedClose hc h
  · exact h

theorem limiter_takeDueWindow {c : Setup} {s : State} (h : p (some c) s.el) :
    p (some c) (takeDueWindow c s).el := by
  unfold takeDueWindow
  split
  · exact limiter_closeWindow hc h
  · exact h

theorem limiter_takeDue {s : State} (h : p s.config s.el) : p s.config (takeDue s).el := by
  unfold takeDue
  split
  · exact h
  · rename_i c hcfg
    rw [hcfg] at h ⊢
    exact limiter_takeDueBoundary hc (limiter_takeDueBlock hc h)

theorem limiter_takeAllDue {c : Setup} {s : State} (hcfg : s.config = some c)
    (h : p s.config s.el) : p s.config (takeAllDue c s).el := by
  have hd := limiter_takeDue hc h
  rw [hcfg] at hd ⊢
  exact limiter_takeDueWindow hc hd

theorem limiter_missingSet {c : Setup} {s : State} (hcfg : s.config = some c)
    (h : p s.config s.el) : p s.config (missingSet c s).el := by
  simpa [missingSet] using limiter_takeAllDue hc hcfg h

theorem limiter_missingSets {c : Setup} (k : Nat) {s : State} (hcfg : s.config = some c)
    (h : p s.config s.el) : p s.config (missingSets c k s).el := by
  induction k generalizing s with
  | zero => exact h
  | succ k ih =>
    simpa [missingSets] using
      ih (s := missingSet c s) (by simpa using hcfg) (by simpa using limiter_missingSet hc hcfg h)

theorem limiter_takeFrame {c : Setup} {bytes : List Byte} {s : State} (hcfg : s.config = some c)
    (h : p s.config s.el) : p s.config (takeFrame c bytes s).el := by
  unfold takeFrame
  dsimp only
  split
  · simpa [receivedSet] using limiter_takeAllDue hc hcfg h
  · split
    · rename_i e _ _
      have := limiter_missingSets hc (sampleSequence bytes - e).toNat hcfg h
      simpa [receivedSet] using
        limiter_takeAllDue hc (s := missingSets c _ s) (by simpa using hcfg) (by simpa using this)
    · exact h

theorem limiter_enterHold {b : Bool} {s : State} (h : p s.config s.el) :
    p s.config (enterHold b s).el := by
  have h1 : p s.config (holdClose s).el := by
    unfold holdClose
    split
    · exact h
    · rename_i c hcfg
      rw [hcfg] at h ⊢
      split
      · exact hc.hand _ _ _ (limiter_earlyClose hc h) (fun hb => ⟨le_refl _, hb⟩)
      · exact h
  exact hc.hold _ _ h1

theorem limiter_holdIfWarned {s : State} (h : p s.config s.el) :
    p s.config (holdIfWarned s).el := by
  unfold holdIfWarned
  split
  · exact limiter_enterHold hc h
  · exact h

theorem limiter_wakeBlocks {k : Option Setup} {s : State} (h : p k s.el) : p k (wakeBlocks s).el :=
  hc.settle _ _ h

theorem limiter_enterRun {c : Setup} {k : Option Setup} {id : IntervalId} {e : Nat} {s : State}
    (h : p k s.el) : p k (enterRun c id e s).el :=
  hc.start _ _ h

theorem limiter_enterResync {c : Setup} {k : Option Setup} {id : IntervalId} {s : State}
    (h : p k s.el) : p k (enterResync c id s).el :=
  hc.start _ _ h

theorem limiter_leaveHold {s : State} (h : p s.config s.el) : p s.config (leaveHold s).el := by
  unfold leaveHold
  split
  · exact limiter_enterResync hc (limiter_wakeBlocks hc h)
  · exact h

theorem limiter_passOn {c : Setup} {ch : Channel} {f : GroupFrame} {s : State}
    (h : p (some c) s.el) : p (some c) (passOn c ch f s).el := by
  unfold passOn
  split
  · exact h
  · unfold offerTiming
    split
    · exact h
    · split
      · exact h
      · simpa [adopt] using limiter_enterRun hc (limiter_earlyClose hc h)
  · exact h
  · exact h

/-- Every step keeps a property of the limiter that its operations keep. -/
theorem limiter_kept : KeptByStep fun s => p s.config s.el := by
  refine kept_of_after (fun _ _ h => h) ?_
  intro i s h
  have hd : p s.config (takeDue s).el := limiter_takeDue hc h
  have hd' : p (takeDue s).config (takeDue s).el := by simpa using hd
  cases i <;> simp only [after]
  all_goals first
    | simpa using hd
    | simpa using h
    | skip
  case sampleSetFrame =>
    unfold sampleArrives
    split
    · exact hd'
    · rename_i c hcfg
      split
      · exact hd'
      · simpa using limiter_takeFrame hc hcfg hd'
  case watchdogExpiry =>
    unfold watchdogExpires
    split
    · exact hd'
    · rename_i c hcfg
      split
      · simpa using limiter_missingSet hc hcfg hd'
      · exact hd'
  case blockClose =>
    unfold blockCloses
    split
    · exact h
    · rename_i c hcfg
      rw [hcfg] at h
      simpa [hcfg] using limiter_takeDueBlock hc h
  case countCompleteBoundary =>
    split
    · exact h
    · rename_i c hcfg
      rw [hcfg] at h
      split
      · simpa [hcfg] using limiter_countBoundary hc (limiter_takeDueBlock hc h)
      · rwa [hcfg]
  case unalignedBoundary =>
    split
    · exact h
    · rename_i c hcfg
      rw [hcfg] at h
      split
      · simpa [hcfg] using limiter_unalignedClose hc (limiter_takeDueBlock hc h)
      · rwa [hcfg]
  case windowClose =>
    split
    · exact h
    · rename_i c hcfg
      rw [hcfg] at h
      simpa [hcfg] using limiter_takeDueWindow hc h
  case completeFrame =>
    unfold frameCompletes
    split
    · exact hd'
    · rename_i c hcfg
      rw [hcfg] at hd'
      split
      · split
        · rwa [malformedEnds_config, malformedEnds_el, hcfg]
        · split
          · unfold judgeFrame
            split
            all_goals try simp only [countError_el, countError_config, countGood_el, countGood_config,
              duplicateStationHeard_el, duplicateStationHeard_config, setRecv_el, setRecv_config, hcfg]
            all_goals first
              | exact hd'
              | skip
            simp only [acceptFrame, passOn_config, countGood_config, setRecv_config, hcfg]
            exact limiter_passOn hc (by simpa using hd')
          · rwa [hcfg]
      · rwa [hcfg]
  case cutoffSample =>
    exact unlessHeld_cases (p := fun t => p t.config t.el) hd' (hc.sample _ _ _ _ hd')
  case holdEntry =>
    refine unlessHeld_cases (p := fun t => p t.config t.el) hd' ?_
    unfold pfwActive
    split
    · exact hd'
    · simpa using limiter_enterHold hc hd'
  case pfwInactive => split <;> exact h
  case pfwActiveInHold => split <;> exact h
  case releaseTimer =>
    split
    · simpa using limiter_holdIfWarned hc (s := leaveHold s) (by simpa using limiter_leaveHold hc h)
    · exact h
  case powerOnReset => simpa using (show p (clearedPart s).config (clearedPart s).el from hc.reset)
  case resetn =>
    simpa [resetPart] using
      (show p (retainedPart (takeDue s)).config (retainedPart (takeDue s)).el from hc.reset)
  case discardedTransaction csn => cases csn <;> simpa using h
  case loadConfig block =>
    split
    · exact h
    · refine served_cases (p := fun t => p t.config t.el) hd' ?_
      unfold loadConfigActs
      dsimp only
      split
      · split
        · simpa using hd
        · rename_i hpass
          have ha : p (some (configSetup (block.take 126)))
            (acceptConfig (configSetup (block.take 126))
              (configOpening (block.take 126)) (takeDue s)).el :=
            hc.accept _ _ _ hd' (passed_caps hpass)
          have hl := limiter_holdIfWarned hc (s := configAccepted (block.take 126) (takeDue s)) (by
            simp only [configAccepted, leaveStart_config]
            unfold leaveStart
            split
            · exact limiter_enterRun hc (limiter_wakeBlocks hc ha)
            · exact limiter_enterResync hc (limiter_wakeBlocks hc ha))
          simpa using hl
      · simpa using hd
  case writeLines =>
    refine served_cases (p := fun t => p t.config t.el) hd' ?_
    unfold writeLinesActs
    dsimp only
    split
    · simpa using hd
    · rename_i c hcfg
      (repeat' split)
      all_goals first
        | simpa using hd
        | skip
      rw [hcfg] at hd'
      have hcfg' : s.config = some c := by simpa using hcfg
      simpa [hcfg'] using hc.latch _ _ _ hd'
  case releaseCutoff =>
    refine served_cases (p := fun t => p t.config t.el) hd' ?_
    unfold releaseCutoffActs
    dsimp only
    (repeat' split)
    all_goals first
      | simpa using hd
      | skip
    simpa using hc.release _ _ hd
  case setDayPosition =>
    refine served_cases (p := fun t => p t.config t.el) hd' ?_
    unfold setDayPositionActs
    dsimp only
    split
    · simpa using hd
    · rename_i c hcfg
      (repeat' split)
      all_goals first
        | simpa using hd
        | skip
      rw [hcfg] at hd'
      have hcfg' : s.config = some c := by simpa using hcfg
      unfold presetPosition
      dsimp only
      split
      · simpa [hcfg'] using limiter_beginInterval hc (limiter_earlyClose hc hd')
      · simpa [hcfg'] using limiter_enterRun hc (limiter_earlyClose hc hd')
  case resync =>
    refine served_cases (p := fun t => p t.config t.el) hd' ?_
    unfold resyncActs
    split
    · simpa using hd
    · rename_i c hcfg
      split
      · rw [hcfg] at hd'
        have hcfg' : s.config = some c := by simpa using hcfg
        simpa [hcfg', resyncFromRun] using limiter_enterResync hc
          (hc.hand _ _ _ (limiter_earlyClose hc hd') (fun hb => ⟨le_refl _, hb⟩))
      · simpa using hd

end Limiter

end Sys2Proof.Machine
end

