-- ==== Sys2Proof/Laws/LineSteps.lean ====
section
/-! SUPPORT. What a step can do to the Line Controller: a property of the line, given whether the part
is in RUN or RESYNC, that its named operations keep is kept by every step. -/

namespace Sys2Proof.Machine

/-- The operations on the line, each keeping a property `p` of it; `live` is RUN or RESYNC. -/
structure LineClosed (p : Bool → Line → Prop) : Prop where
  handReport : ∀ id n l, p true l → p true (handReport true id n l)
  handPresence : ∀ id l, p true l → p true (handPresence true id l)
  windowClose : ∀ l, p true l → p true (lineWindowClose true l)
  hold : ∀ b l, p b l → p false (lineHold l)
  wake : ∀ l, p false l → p true (lineStartReceiving l)
  accept : ∀ l x y, p false l → p false { l with l := acceptChan x l.l, h := acceptChan y l.h }
  filter : ∀ b l f, p b l → p b { l with filter := f }
  recv : ∀ b l ch r, p b l → (chanOf l ch).recv ≠ .off →
    (chanOf l ch).recv ≠ .discarding ∨ (chanOf l ch).access ≠ .sending → r ≠ .off →
    p b (setChan l ch { chanOf l ch with recv := r })
  errorUp : ∀ b l ch, p b l → p b (lineErrorUp b ch l)
  errorDown : ∀ b l ch, p b l → p b (lineErrorDown b ch l)
  bar : ∀ b l, p b l → p b (barLine l)
  sense : ∀ b l ch a, p b l → p b (setChan l ch (senseChan a (chanOf l ch)))
  gap : ∀ b l ch n, p b l → (chanOf l ch).access = .defer →
    p b (setChan l ch (enterBackoff n (chanOf l ch)))
  begin : ∀ b l ch bytes, p b l → (chanOf l ch).access = .backoff →
    p b (setChan l ch (beginSending bytes (chanOf l ch)))
  dropLate : ∀ b l ch, p b l → (chanOf l ch).access = .backoff → p b (dropLateCopy b ch l)
  next : ∀ b l ch rest, p b l → (chanOf l ch).access = .sending → p b (nextByte ch rest l)
  sent : ∀ b l ch, p b l → (chanOf l ch).access = .sending → p b (attemptSent b ch l)
  failed : ∀ b l ch, p b l → (chanOf l ch).access = .sending → p b (attemptFailed b ch l)
  missing : ∀ b l ch, p b l → (chanOf l ch).access = .sending → p b (missingEchoLine b ch l)
  guard : ∀ b l ch, p b l → (chanOf l ch).access = .sending →
    p b (judgeLine b (setChan l ch { cutChan (chanOf l ch) with state := .fault }))
  enable : ∀ b l ch, p b l → (chanOf l ch).state = .off ∨ (chanOf l ch).state = .fault → b = true →
    p b (judgeLine b (setChan l ch (enableChan (chanOf l ch))))
  disable : ∀ b l ch, p b l → p b (judgeLine b (setChan l ch (disableChan (chanOf l ch))))
  reset : ∀ x y, p false
    { Line.reset with
      l := { Chan.reset with cs := x }
      h := { Chan.reset with cs := y } }

/-- The line as the presence counter is stepped (R43). -/
theorem pacePresence_line (c : Setup) (s : State) :
    (pacePresence c s).line =
      if s.it.presence = 1 then handPresence (isLive s) s.it.id s.line else s.line := by
  unfold pacePresence
  split <;> rfl

/-- The line after a count-complete boundary in RUN: the REPORT is handed over, and then a PRESENCE
where the presence counter is 1 (R34, R43). -/
theorem countBoundary_line (c : Setup) (s : State) :
    (countBoundary c s).line =
      if s.it.presence = 1 then
        handPresence (isLive s) (succId (perDay c.lengthCode) s.it.id)
          (handReport (isLive s) s.it.id (takeFigures false s).net s.line)
      else handReport (isLive s) s.it.id (takeFigures false s).net s.line := by
  unfold countBoundary
  dsimp only
  rw [pacePresence_line]
  rfl

section Line

variable {p : Bool → Line → Prop} (hc : LineClosed p)

include hc

theorem line_countBoundary {c : Setup} {s : State} (hl : isLive s = true) (h : p true s.line) :
    p true (countBoundary c s).line := by
  rw [countBoundary_line, hl]
  have h1 := hc.handReport s.it.id (takeFigures false s).net _ h
  split
  · exact hc.handPresence _ _ h1
  · exact h1

theorem line_closeWindow {c : Setup} {s : State} (hl : isLive s = true) (h : p true s.line) :
    p true (closeWindow c s).line := by
  unfold closeWindow
  split
  · simpa [settleWindow, hl] using hc.windowClose _ h
  · simpa [hl] using hc.windowClose _ h

theorem line_earlyClose {c : Setup} {k : EarlyCause} {s : State} (hl : isLive s = true)
    (h : p true s.line) : p true (earlyClose c k s).line := by
  have h1 : p true (settleOpenWindow c (closeOpenBlock c (k != .hold) s)).line := by
    unfold settleOpenWindow
    split
    · exact line_closeWindow hc (by simpa using hl) (by simpa using h)
    · simpa using h
  simpa [earlyClose] using h1

theorem line_takeDue {s : State} (h : p (isLive s) s.line) : p (isLive s) (takeDue s).line := by
  unfold takeDue
  split
  · exact h
  · unfold takeDueBoundary
    split
    · rename_i hcc
      have hl : isLive s = true := by
        simp only [countComplete, takeDueBlock_isLive, Bool.and_eq_true] at hcc
        exact hcc.1
      rw [hl] at h ⊢
      split
      · exact line_countBoundary hc (by simpa using hl) (by simpa using h)
      · simpa using h
    · simpa using h

theorem line_takeDueWindow {c : Setup} {s : State} (h : p (isLive s) s.line) :
    p (isLive s) (takeDueWindow c s).line := by
  unfold takeDueWindow
  split
  · rename_i hw
    have hl : isLive s = true := by
      simp only [windowDue, Bool.and_eq_true] at hw
      exact hw.1.1
    rw [hl] at h ⊢
    simpa [windowCloses] using line_closeWindow hc hl h
  · exact h

theorem line_takeAllDue {c : Setup} {s : State} (h : p (isLive s) s.line) :
    p (isLive s) (takeAllDue c s).line := by
  simpa [takeAllDue] using
    line_takeDueWindow hc (c := c) (s := takeDue s) (by simpa using line_takeDue hc h)

theorem line_missingSet {c : Setup} {s : State} (h : p (isLive s) s.line) :
    p (isLive s) (missingSet c s).line := by
  simpa [missingSet] using line_takeAllDue hc h

theorem line_missingSets {c : Setup} (k : Nat) {s : State} (h : p (isLive s) s.line) :
    p (isLive s) (missingSets c k s).line := by
  induction k generalizing s with
  | zero => exact h
  | succ k ih =>
    simpa [missingSets] using ih (s := missingSet c s) (by simpa using line_missingSet hc h)

theorem line_takeFrame {c : Setup} {bytes : List Byte} {s : State} (h : p (isLive s) s.line) :
    p (isLive s) (takeFrame c bytes s).line := by
  unfold takeFrame
  dsimp only
  split
  · simpa [receivedSet] using line_takeAllDue hc h
  · split
    · rename_i e _ _
      have := line_missingSets hc (c := c) (sampleSequence bytes - e).toNat h
      simpa [receivedSet] using line_takeAllDue hc (s := missingSets c _ s) (by simpa using this)
    · exact h

theorem line_enterHold {b : Bool} {s : State} (h : p (isLive s) s.line) :
    p (isLive (enterHold b s)) (enterHold b s).line := by
  have h1 : p (isLive s) (holdClose s).line := by
    unfold holdClose
    split
    · exact h
    · rename_i c _
      split
      · rename_i hl
        rw [hl] at h ⊢
        exact line_earlyClose hc hl h
      · exact h
  exact hc.hold _ _ h1

theorem line_holdIfWarned {s : State} (h : p (isLive s) s.line) :
    p (isLive (holdIfWarned s)) (holdIfWarned s).line := by
  unfold holdIfWarned
  split
  · exact line_enterHold hc h
  · exact h

theorem line_enterRun {c : Setup} {id : IntervalId} {e : Nat} {s : State} (h : p true s.line) :
    p (isLive (enterRun c id e s)) (enterRun c id e s).line :=
  hc.handPresence _ _ h

theorem line_enterResync {c : Setup} {id : IntervalId} {s : State} (h : p true s.line) :
    p (isLive (enterResync c id s)) (enterResync c id s).line :=
  hc.handPresence _ _ h

theorem line_adopt {c : Setup} {ch : Channel} {f : GroupFrame} {k : Option Capture}
    {id : IntervalId} {e : Nat} {s : State} (hl : isLive s = true) (h : p true s.line) :
    p (isLive (adopt c ch f k id e s)) (adopt c ch f k id e s).line :=
  line_enterRun hc (line_earlyClose hc hl h)

theorem line_passOn {c : Setup} {ch : Channel} {f : GroupFrame} {s : State}
    (h : p (isLive s) s.line) : p (isLive (passOn c ch f s)) (passOn c ch f s).line := by
  unfold passOn
  split
  · exact h
  · rename_i hop
    have hl : isLive s = true := by simp [isLive, opLive, hop]
    unfold offerTiming
    split
    · exact h
    · split
      · exact h
      · exact line_adopt hc hl (by rwa [hl] at h)
  · exact h
  · exact h

theorem line_setRecv {ch : Channel} {r : RecvState} {s : State} (h : p (isLive s) s.line)
    (h1 : (chanOf s.line ch).recv ≠ .off)
    (h2 : (chanOf s.line ch).recv ≠ .discarding ∨ (chanOf s.line ch).access ≠ .sending)
    (h3 : r ≠ .off) : p (isLive s) (setRecv ch r s).line :=
  hc.recv _ _ _ _ h h1 h2 h3

theorem line_malformedEnds {ch : Channel} {s : State} (h : p (isLive s) s.line) :
    p (isLive s) (malformedEnds ch s).line := by
  unfold malformedEnds
  split
  · rename_i hr
    have := line_setRecv hc (ch := ch) (r := .discarding) h (by simp [hr]) (by simp [hr]) (by simp)
    exact hc.errorUp _ _ ch this
  · exact h

theorem line_judgeFrame {c : Setup} {ch : Channel} {bytes : List Byte} {s : State}
    (h : p (isLive s) s.line) :
    p (isLive (judgeFrame c ch bytes s)) (judgeFrame c ch bytes s).line := by
  unfold judgeFrame
  split
  · exact hc.errorUp _ _ ch h
  · exact hc.errorUp _ _ ch h
  · exact h
  · exact hc.bar _ _ h
  · exact hc.errorDown _ _ ch h
  · unfold acceptFrame
    dsimp only
    apply line_passOn hc
    have := hc.errorDown _ _ ch h
    exact hc.filter _ _ _ this

theorem line_backoffEnds {ch : Channel} {s : State} (h : p (isLive s) s.line) :
    p (isLive s) (backoffEnds ch s).line := by
  unfold backoffEnds
  split
  · exact h
  · dsimp only
    split
    · rename_i hr
      split
      · exact h
      · split
        · exact hc.dropLate _ _ _ h hr.1
        · exact hc.begin _ _ _ _ h hr.1
    · exact h

/-- Every step keeps a property of the line that its operations keep. -/
theorem line_kept : KeptByStep fun s => p (isLive s) s.line := by
  refine kept_of_after (fun _ _ h => h) ?_
  intro i s h
  have hd : p (isLive s) (takeDue s).line := line_takeDue hc h
  have hd' : p (isLive (takeDue s)) (takeDue s).line := by simpa using hd
  cases i <;> simp only [after]
  all_goals first
    | simpa using hd
    | simpa using h
    | skip
  case sampleSetFrame =>
    unfold sampleArrives
    split
    · exact hd'
    · split
      · exact hd'
      · simpa using line_takeFrame hc hd'
  case watchdogExpiry =>
    unfold watchdogExpires
    split
    · exact hd'
    · split
      · simpa [isLive] using line_missingSet hc hd'
      · exact hd'
  case countCompleteBoundary =>
    split
    · exact h
    · split
      · rename_i hcc
        have hl : isLive s = true := by
          simp only [countComplete, Bool.and_eq_true] at hcc
          exact hcc.1.1
        rw [hl] at h
        simpa [hl] using line_countBoundary hc (s := takeDueBlock _ s) (by simpa using hl)
          (by simpa using h)
      · exact h
  case unalignedBoundary =>
    split
    · exact h
    · split
      · simpa using h
      · exact h
  case windowClose =>
    split
    · exact h
    · simpa using line_takeDueWindow hc h
  case receptionStart =>
    unfold receptionStarts
    split
    · rename_i hr
      exact line_setRecv hc hd' (by simp [hr]) (by simp [hr]) (by simp)
    · exact hd'
  case completeFrame ch bytes =>
    unfold frameCompletes
    split
    · exact hd'
    · split
      · rename_i hr
        split
        · simpa using line_malformedEnds hc hd'
        · split
          · exact line_judgeFrame hc
              (line_setRecv hc (r := .ready) hd' (by simp [hr]) (by simp [hr]) (by simp))
          · exact hd'
      · exact hd'
  case malformedReception => simpa using line_malformedEnds hc hd'
  case receptionTimeout ch =>
    unfold timeoutEnds
    split
    · rename_i hr
      have := line_setRecv hc (ch := ch) (r := .ready) hd' (by simp [hr]) (by simp [hr]) (by simp)
      exact hc.errorUp _ _ ch this
    · exact hd'
  case receiveReady =>
    unfold becomesReady
    dsimp only
    split
    · rename_i hr
      refine line_setRecv hc hd' ?_ (.inr hr.2) (by simp)
      rcases hr.1 with hr | hr <;> simp [hr]
    · exact hd'
  case carrierSenseChange =>
    unfold carrierChanges
    split
    · exact hd'
    · exact hc.sense _ _ _ _ hd'
  case quietGap ch =>
    unfold gapCompletes
    dsimp only
    split
    · rename_i hr
      have hg := hc.gap _ _ _ (drawnSlots (takeDue s) (chanOf (takeDue s).line ch).attempts)
        hd' hr.1
      split
      · simpa using line_backoffEnds hc
          (s := { takeDue s with
                  draws := (takeDue s).draws + 1
                  line :=
                    setChan (takeDue s).line ch
                      (enterBackoff (drawnSlots (takeDue s) (chanOf (takeDue s).line ch).attempts)
                        (chanOf (takeDue s).line ch)) })
          hg
      · exact hg
    · exact hd'
  case backoffEnd => simpa using line_backoffEnds hc hd'
  case echo =>
    unfold echoArrives
    dsimp only
    split
    · rename_i hr
      split
      · exact hd'
      · split
        · exact hc.failed _ _ _ hd' hr
        · split
          · exact hc.sent _ _ _ hd' hr
          · exact hc.next _ _ _ _ hd' hr
    · exact hd'
  case missingEcho =>
    unfold echoMissing
    dsimp only
    split
    · rename_i hr
      exact hc.missing _ _ _ hd' hr
    · exact hd'
  case jabberGuard =>
    unfold guardTrips
    dsimp only
    split
    · rename_i hr
      exact hc.guard _ _ _ hd' hr
    · exact hd'
  case holdEntry =>
    refine unlessHeld_cases (p := fun t => p (isLive t) t.line) hd' ?_
    unfold pfwActive
    split
    · exact hd'
    · exact line_enterHold hc hd'
  case pfwInactive => split <;> exact h
  case pfwActiveInHold => split <;> exact h
  case releaseTimer =>
    split
    · rename_i hop
      have hl : isLive s = false := by simp [isLive, opLive, hop.1]
      rw [hl] at h
      apply line_holdIfWarned hc
      unfold leaveHold
      split
      · exact line_enterResync hc (hc.wake _ h)
      · exact h
    · exact h
  case powerOnReset phase =>
    cases phase with
    | held => exact hc.reset _ _
    | ended pfw _ => cases pfw <;> exact hc.reset _ _
  case resetn phase =>
    cases phase with
    | held => exact hc.reset _ _
    | ended pfw _ => cases pfw <;> exact hc.reset _ _
  case discardedTransaction csn => cases csn <;> simpa using h
  case loadConfig block =>
    split
    · exact h
    · refine served_cases (p := fun t => p (isLive t) t.line) hd' ?_
      unfold loadConfigActs
      dsimp only
      split
      · rename_i hop
        have hl : isLive (takeDue s) = false := by simp only [isLive, opLive, hop]
        rw [hl] at hd'
        split
        · rw [respond_isLive, respond_line, hl]
          exact hd'
        · rw [respond_isLive, respond_line]
          apply line_holdIfWarned hc
          have ha := hc.wake _ (hc.accept _ (configSetup (block.take 126)).enableL
            (configSetup (block.take 126)).enableH hd')
          unfold configAccepted leaveStart
          split
          · exact line_enterRun hc ha
          · exact line_enterResync hc ha
      · simpa using hd
  case setDayPosition =>
    refine served_cases (p := fun t => p (isLive t) t.line) hd' ?_
    unfold setDayPositionActs
    dsimp only
    split
    · simpa using hd
    · split
      · simpa using hd
      · rename_i hlive
        have hl : isLive (takeDue s) = true := by simpa using hlive
        split
        · simpa using hd
        · rw [hl] at hd'
          rw [respond_isLive, respond_line]
          unfold presetPosition
          dsimp only
          have he := fun c => line_earlyClose hc (c := c) (k := .setDay) hl hd'
          split
          · have hl' : isLive s = true := by simpa using hl
            simpa [hl'] using he _
          · exact line_enterRun hc (he _)
  case enableChannel =>
    refine served_cases (p := fun t => p (isLive t) t.line) hd' ?_
    unfold enableChannelActs
    dsimp only
    split
    · simpa using hd
    · rename_i hlive
      have hl : isLive (takeDue s) = true := by simpa using hlive
      split
      · rename_i ch enable _ _
        split
        · rename_i hact
          rw [respond_isLive, respond_line]
          cases enable
          · exact hc.disable _ _ ch hd'
          · refine hc.enable _ _ ch hd' ?_ hl
            simpa [channelActs] using hact
        · simpa using hd
      · simpa using hd
  case resync =>
    refine served_cases (p := fun t => p (isLive t) t.line) hd' ?_
    unfold resyncActs
    split
    · simpa using hd
    · split
      · rename_i hop
        have hl : isLive (takeDue s) = true := by simp only [isLive, opLive, hop]
        rw [hl] at hd'
        rw [respond_isLive, respond_line]
        exact line_enterResync hc (hc.filter _ _ _ (line_earlyClose hc hl hd'))
      · simpa using hd

end Line

end Sys2Proof.Machine
end

