-- ==== Sys2Proof/Laws/PerInstr.lean ====
section
/-! SUPPORT. The family MosiTransaction: a command that is a transaction of the readout port is what
its MOSI bytes are read as (R160, R161, R178). -/

namespace Sys2Proof.Laws.MosiTransaction

/-- A well-formed command's MOSI bytes are read as that command. -/
def Statement (i : Instr) : Prop :=
  wellFormed i = true → ∀ bs, mosi i = some bs → transaction bs = i

/-- A command that is no transaction has no MOSI bytes. -/
theorem of_none {i : Instr} (h : mosi i = none) : Statement i := by
  intro _ bs hb
  simp [h] at hb

theorem sampleSetFrame (bytes : List Byte) (partialBits : Nat) (sfrmInIdle : Bool) :
    Statement (.sampleSetFrame bytes partialBits sfrmInIdle) := of_none rfl

theorem watchdogExpiry :
    Statement (.watchdogExpiry) := of_none rfl

theorem blockClose :
    Statement (.blockClose) := of_none rfl

theorem countCompleteBoundary :
    Statement (.countCompleteBoundary) := of_none rfl

theorem unalignedBoundary :
    Statement (.unalignedBoundary) := of_none rfl

theorem windowClose :
    Statement (.windowClose) := of_none rfl

theorem receptionStart (ch : Channel) :
    Statement (.receptionStart ch) := of_none rfl

theorem completeFrame (ch : Channel) (bytes : List Byte) :
    Statement (.completeFrame ch bytes) := of_none rfl

theorem malformedReception (ch : Channel) :
    Statement (.malformedReception ch) := of_none rfl

theorem receptionTimeout (ch : Channel) :
    Statement (.receptionTimeout ch) := of_none rfl

theorem receiveReady (ch : Channel) :
    Statement (.receiveReady ch) := of_none rfl

theorem carrierSenseChange (ch : Channel) (active : Bool) :
    Statement (.carrierSenseChange ch active) := of_none rfl

theorem quietGap (ch : Channel) :
    Statement (.quietGap ch) := of_none rfl

theorem backoffEnd (ch : Channel) :
    Statement (.backoffEnd ch) := of_none rfl

theorem echo (ch : Channel) (byte : Byte) (byteError : Bool) :
    Statement (.echo ch byte byteError) := of_none rfl

theorem missingEcho (ch : Channel) :
    Statement (.missingEcho ch) := of_none rfl

theorem jabberGuard (ch : Channel) :
    Statement (.jabberGuard ch) := of_none rfl

theorem cutoffSample (level : Bool) :
    Statement (.cutoffSample level) := of_none rfl

theorem holdEntry (pfwStill : Bool) :
    Statement (.holdEntry pfwStill) := of_none rfl

theorem pfwInactive :
    Statement (.pfwInactive) := of_none rfl

theorem releaseTimer :
    Statement (.releaseTimer) := of_none rfl

theorem powerOnReset (phase : ResetPhase) :
    Statement (.powerOnReset phase) := of_none rfl

theorem resetn (phase : ResetPhase) :
    Statement (.resetn phase) := of_none rfl

theorem loadConfig (block : List Byte) :
    Statement (.loadConfig block) := by
  intro hw bs hb
  simp only [wellFormed, decide_eq_true_eq] at hw
  simp only [mosi, Option.some.injEq] at hb
  subst hb
  simp [transaction, argumentBytes, commandOf, hw, List.take_of_length_le hw.le]

theorem readStatus :
    Statement (.readStatus) := by
  intro _ bs hb
  simp only [mosi, Option.some.injEq] at hb
  subst hb
  rfl

theorem readTotals :
    Statement (.readTotals) := by
  intro _ bs hb
  simp only [mosi, Option.some.injEq] at hb
  subst hb
  rfl

theorem readRecord (page : Byte) (slot : Byte) :
    Statement (.readRecord page slot) := by
  intro _ bs hb
  simp only [mosi, Option.some.injEq] at hb
  subst hb
  rfl

theorem releasePage (page : Byte) :
    Statement (.releasePage page) := by
  intro _ bs hb
  simp only [mosi, Option.some.injEq] at hb
  subst hb
  rfl

theorem writeLines (mode : Byte) (value : Byte) :
    Statement (.writeLines mode value) := by
  intro _ bs hb
  simp only [mosi, Option.some.injEq] at hb
  subst hb
  rfl

theorem releaseCutoff :
    Statement (.releaseCutoff) := by
  intro _ bs hb
  simp only [mosi, Option.some.injEq] at hb
  subst hb
  rfl

theorem readAlert :
    Statement (.readAlert) := by
  intro _ bs hb
  simp only [mosi, Option.some.injEq] at hb
  subst hb
  rfl

theorem ackAlert (cause : Byte) :
    Statement (.ackAlert cause) := by
  intro _ bs hb
  simp only [mosi, Option.some.injEq] at hb
  subst hb
  rfl

theorem setMask (mask : BitVec 16) :
    Statement (.setMask mask) := by
  intro _ bs hb
  simp only [mosi, Option.some.injEq] at hb
  subst hb
  have h : BitVec.ofNat 16 (beNat (beBytes 2 mask.toNat)) = mask := by
    rw [beNat_beBytes (by have := mask.isLt; omega)]
    simp
  have hl : (beBytes 2 mask.toNat).take 2 = beBytes 2 mask.toNat := by simp [List.take_of_length_le]
  simp [transaction, argumentBytes, commandOf, fieldAt, bytesAt, hl, h]

theorem setDayPosition (day : BitVec 16) (iod : BitVec 16) (elapsed : BitVec 32) :
    Statement (.setDayPosition day iod elapsed) := by
  intro _ bs hb
  simp only [mosi, Option.some.injEq] at hb
  subst hb
  have h1 : BitVec.ofNat 16 (beNat (beBytes 2 day.toNat)) = day := by
    rw [beNat_beBytes (by have := day.isLt; omega)]
    simp
  have h2 : BitVec.ofNat 16 (beNat (beBytes 2 iod.toNat)) = iod := by
    rw [beNat_beBytes (by have := iod.isLt; omega)]
    simp
  have h3 : BitVec.ofNat 32 (beNat (beBytes 4 elapsed.toNat)) = elapsed := by
    rw [beNat_beBytes (by have := elapsed.isLt; omega)]
    simp
  have l1 : (beBytes 2 day.toNat).length = 2 := beBytes_length _ _
  have l2 : (beBytes 2 iod.toNat).length = 2 := beBytes_length _ _
  have l3 : (beBytes 4 elapsed.toNat).length = 4 := beBytes_length _ _
  generalize beBytes 2 day.toNat = a at *
  generalize beBytes 2 iod.toNat = b at *
  generalize beBytes 4 elapsed.toNat = c at *
  have e1 : fieldAt (a ++ b ++ c) 0 2 = beNat a := by simp [fieldAt, bytesAt, ← l1]
  have e2 : fieldAt (a ++ b ++ c) 2 2 = beNat b := by
    simp [fieldAt, bytesAt, l1, ← l2]
  have e3 : fieldAt (a ++ b ++ c) 4 4 = beNat c := by
    have hd : (a ++ b ++ c).drop 4 = c := List.drop_left' (by simp [l1, l2])
    rw [fieldAt, bytesAt, hd, List.take_of_length_le l3.le]
  have hg : (a ++ b ++ c).length = 8 := by simp [l1, l2, l3]
  generalize a ++ b ++ c = g at *
  simp [transaction, argumentBytes, commandOf, hg, List.take_of_length_le hg.le, e1, e2, e3, h1, h2, h3]

theorem readPeer (station : Byte) :
    Statement (.readPeer station) := by
  intro _ bs hb
  simp only [mosi, Option.some.injEq] at hb
  subst hb
  rfl

theorem enableChannel (channel : Byte) (action : Byte) :
    Statement (.enableChannel channel action) := by
  intro _ bs hb
  simp only [mosi, Option.some.injEq] at hb
  subst hb
  rfl

theorem resync :
    Statement (.resync) := by
  intro _ bs hb
  simp only [mosi, Option.some.injEq] at hb
  subst hb
  rfl

theorem unknownCommand (code : Byte) :
    Statement (.unknownCommand code) := by
  intro hw bs hb
  simp only [wellFormed, Option.isNone_iff_eq_none] at hw
  simp only [mosi, Option.some.injEq] at hb
  subst hb
  simp [transaction, hw]

theorem discardedTransaction (csn : CsnEvent) :
    Statement (.discardedTransaction csn) := by
  intro hw bs hb
  cases csn with
  | begun taken => simp [mosi] at hb
  | afterwards => simp [mosi] at hb
  | beforeActing taken =>
    simp only [mosi, Option.some.injEq] at hb
    subst hb
    cases taken with
    | nil => rfl
    | cons code args =>
      simp only [wellFormed, notYetActing] at hw
      cases hn : argumentBytes code with
      | none => simp [hn] at hw
      | some n =>
        simp only [hn, decide_eq_true_eq] at hw
        simp [transaction, hn, hw]

theorem pfwActiveInHold :
    Statement (.pfwActiveInHold) := of_none rfl

end Sys2Proof.Laws.MosiTransaction
end

