-- ==== Sys2Proof/Laws/Pins.lean ====
section
/-! SUPPORT. The clocked pins: which samples a clock takes, the bytes that bits give, and the bit that stands on
MISO. -/

namespace Sys2Proof.Machine

/-- The bits of a byte, the most significant first. -/
def bitsMsbFirst (b : Byte) : List Bool :=
  (List.range 8).map fun i => b.getLsbD (7 - i)

/-- A clock that starts low takes the data at each rising edge, whatever the data is at the falling ones. -/
theorem risingSamples_pulses (data : List (Bool × Bool)) :
    risingSamples false (data.flatMap fun d => [(true, d.1), (false, d.2)]) = data.map (·.1) := by
  induction data with
  | nil => rfl
  | cons d rest ih => simp [risingSamples, ih]

/-- A low level before the first pulse gives no sample, whatever the clock was before it. -/
theorem risingSamples_low (was first : Bool) (levels : List (Bool × Bool)) :
    risingSamples was ((false, first) :: levels) = risingSamples false levels := by
  simp [risingSamples]

/-- A byte's bits give the byte. -/
theorem byteMsbFirst_bits (b : Byte) : byteMsbFirst (bitsMsbFirst b) = b := by
  revert b
  decide +kernel

/-- Eight bits complete a byte where no partial byte stands. -/
theorem clockBit_byte (b : Byte) (bytes : List Byte) :
    (bitsMsbFirst b).foldl clockBit (bytes, []) = (bytes ++ [b], []) := by
  have h := byteMsbFirst_bits b
  simp only [bitsMsbFirst, List.range, List.range.loop, List.map] at h ⊢
  simp only [List.foldl, clockBit, List.length_nil, List.nil_append]
  simpa using h

/-- Bits that complete no byte join the partial byte. -/
theorem clockBit_part (bits part : List Bool) (bytes : List Byte)
    (h : part.length + bits.length < 8) :
    bits.foldl clockBit (bytes, part) = (bytes, part ++ bits) := by
  induction bits generalizing part with
  | nil => simp
  | cons bit rest ih =>
    simp only [List.length_cons] at h
    have hp : part.length < 7 := by omega
    simp only [List.foldl_cons, clockBit, if_pos hp]
    rw [ih _ (by simp; omega)]
    simp

/-- The bits of whole bytes and fewer than eight bits more are clocked in as exactly these. -/
theorem clockedIn_bytes (bytes : List Byte) (part : List Bool) (h : part.length < 8) :
    clockedIn (bytes.flatMap bitsMsbFirst ++ part) = (bytes, part) := by
  have hb : ∀ done : List Byte,
      (bytes.flatMap bitsMsbFirst).foldl clockBit (done, []) = (done ++ bytes, []) := by
    induction bytes with
    | nil => simp
    | cons b rest ih => intro done; simp [List.foldl_append, clockBit_byte, ih]
  simp [clockedIn, List.foldl_append, hb, clockBit_part, h]

/-- One more level of the clock: its falling edges are counted, and it falls exactly from high to low. -/
theorem fallingEdges_append (was clock : Bool) (levels : List Bool) :
    fallingEdges was (levels ++ [clock])
      = fallingEdges was levels + (if levels.getLastD was && !clock then 1 else 0) := by
  induction levels generalizing was with
  | nil => simp [fallingEdges]
  | cons level rest ih =>
    simp only [List.cons_append, fallingEdges, ih, List.getLastD_cons]
    omega

/-- Whole pulses of a clock that idles low fall once each. -/
theorem fallingEdges_pulses (n : Nat) :
    fallingEdges false (List.replicate n [true, false]).flatten = n := by
  induction n with
  | zero => rfl
  | succ n ih => simp [List.replicate_succ, fallingEdges, ih, Nat.add_comm]

end Sys2Proof.Machine
end

