-- ==== Sys2Proof/Tests/Slice0.lean ====
section
/-! SUPPORT. Own tests. Expected figures come from the worked examples of the manual, which each test
cites; check values (CRC-8, CRC-16) were computed apart from the model by the definitions of R2 and
R56. Each `witness_<Name>` shows states and operands that meet the hypotheses of that obligation, at
the ends of its ranges. -/

namespace Sys2Proof.Tests

set_option Elab.async false

open Sys2Proof.Machine

/-! ## States -/

/-- The configuration of station 5 (before R179), with the gains of the example before R17. -/
def setup : Setup :=
  { station := 5
    group := 40
    phase1 := true
    phase2 := true
    phase3 := true
    gain1 := 32768
    gain2 := 34406
    gain3 := 32768
    mode := .phaseSum
    quantum := 28800000000
    lengthCode := 3
    calendar := [⟨24, .b3⟩, ⟨28, .b1⟩, ⟨68, .b2⟩, ⟨84, .b3⟩]
    baseCap := 5600000000
    ceilingCap := 8000000000
    holdOffLength := 10
    restoreCount := 50
    enableL := true
    enableH := true
    presence := 4
    window := 9600
    creep := 2000000
    wired := 3#4 }

/-- The same as a configuration block (R177), with the day position (412, 37), elapsed 0. -/
def block : List Byte :=
  [0x05, 0x28, 0x07, 0x80, 0x00, 0x86, 0x66, 0x80, 0x00, 0x00, 0x06, 0xB4, 0x9D, 0x20, 0x00, 0x03,
    0x04, 0x00, 0x18, 0x03, 0x00, 0x1C, 0x01, 0x00, 0x44, 0x02, 0x00, 0x54, 0x03]
    ++ List.replicate 12 0
    ++ [0x01, 0x4D, 0xC9, 0x38, 0x00, 0x01, 0xDC, 0xD6, 0x50, 0x00, 0x00, 0x0A, 0x00, 0x32, 0x03, 0x04,
      0x01, 0x01, 0x9C, 0x00, 0x25, 0x00, 0x00, 0x00, 0x00, 0x00, 0x00, 0x25, 0x80, 0x00, 0x1E, 0x84,
      0x80, 0x03]
    ++ List.replicate 51 0

/-- A channel that is GOOD and ready to receive. -/
def goodChan : Chan :=
  { Chan.reset with state := .good, recv := .ready }

/-- Station 5 in RUN, in interval (412, 37), with an open block of three sets. -/
def live : State :=
  { State.reset with
    config := some setup
    supply := { Supply.reset with op := .run, retentionValid := true, retainedQ := some 28800000000 }
    sp := { state := .running, expected := some 17, missing := 0, lastGood := ⟨7, -7, 0⟩, watchdog := some 3840 }
    ne := { NettingEngine.reset with accImport := 2000000, accExport := 1999999, blockSets := 3 }
    it :=
      { IntervalTimer.reset with
        id := ⟨412, 37⟩
        elapsed := 10000
        length := some 2880000
        presence := 4 }
    rb := { RegisterBank.reset with band := .b1, impQuanta := 40, expQuanta := 140 }
    line := { Line.reset with l := goodChan, h := goodChan }
    su := { Settlement.reset with peers := keyedPeers 5 }
    el := { Limiter.reset with effectiveCap := some 7040000000, latch := 3 } }

/-- The same part in RESYNC. -/
def unaligned : State :=
  { live with
    supply := { live.supply with op := .resync }
    rb := { live.rb with band := .unbanded } }

/-- The same part in HOLD, with PFW active. -/
def holding : State :=
  { live with
    supply := { live.supply with op := .hold, ret := .resync, pfw := true }
    sp := SamplePort.reset
    ne := NettingEngine.reset
    line := { live.line with l := { goodChan with recv := .off }, h := { goodChan with recv := .off } } }

/-- A part whose last set has filled the block. -/
def blockFull : State :=
  { live with ne := { live.ne with blockSets := 64 } }

/-- A part whose last set has completed the interval, its block closed. -/
def completed (s : State) : State :=
  { s with
    it := { s.it with elapsed := 2880000 }
    ne := { s.ne with blockSets := 0, accImport := 0, accExport := 0 } }

/-- The closing record of (412, 37) at station 5 (the matching example, after R94). -/
def closing : Figures :=
  { id := ⟨412, 37⟩
    length := 2880000
    trim := 0
    impQuanta := 40
    expQuanta := 140
    net := -100
    saturated := false
    band := .b1
    held := false
    fault := false
    curtailed := false
    cutoff := false
    short := false }

/-- A peer that was counted, with its closing slot. -/
def peer (n : Nat) (slot : Option ClosingSlot) : PeerEntry :=
  { clearedPeer (some n) with state := .present, counted := true, closing := slot }

/-- Station 5 at set 9600 of (412, 38), stations 2 and 9 heard (the example after R95). -/
def windowFull : State :=
  { live with
    it := { live.it with id := ⟨412, 38⟩, elapsed := 9600, window := some ⟨412, 37⟩ }
    ne := NettingEngine.reset
    su :=
      { Settlement.reset with
        peers := [peer 2 (some ⟨40, -40⟩), peer 9 (some ⟨30, -39⟩)]
        closing := some closing } }

/-- An interval record of a band. -/
def someRecord (b : Band) : Record :=
  { firstId := ⟨412, 66⟩
    lastId := ⟨412, 66⟩
    band := b
    flags := 0
    mergeCount := 1
    heard := 0x224#16
    expected := 2
    trim := 0
    impQuanta := 20
    expQuanta := 260
    share := 80
    m := 80
    x := 240 }

/-- A store whose page 6 has slot 15 left and whose page 7 is SEALED (the example after R141). -/
def nearlyBlocked : Store :=
  { pages :=
      List.replicate 6 ⟨.empty, []⟩ ++ [⟨.filling, List.replicate 15 (someRecord .b1)⟩]
        ++ [⟨.sealed, List.replicate 16 (someRecord .b1)⟩] ++ List.replicate 8 ⟨.empty, []⟩
    writePage := 6
    writeSlot := 15
    held := [] }

/-- The same store blocked, with a held entry of band 2. -/
def blockedStore : Store :=
  { nearlyBlocked with
    pages :=
      List.replicate 6 ⟨.empty, []⟩ ++ [⟨.sealed, List.replicate 16 (someRecord .b1)⟩]
        ++ [⟨.sealed, List.replicate 16 (someRecord .b1)⟩] ++ List.replicate 8 ⟨.empty, []⟩
    writePage := 7
    writeSlot := 0
    held := [someRecord .b2] }

/-- A sample-set frame with the samples of the example before R17 and its CRC-8. -/
def sampleFrame (seq crc : Byte) : List Byte :=
  [seq, 0x4E, 0x20, 0xF4, 0x48, 0x4E, 0x84, 0x05, 0xDC, 0x4D, 0xBC, 0x00, 0x00, crc]

/-- Station 2's REPORT of (412, 37): N = +40, d_s = 57. -/
def report37 : List Byte :=
  [0x12, 0x28, 0x01, 0x9C, 0x00, 0x25, 0x00, 0x00, 0x00, 0x28, 0x03, 0x00, 0x39, 0x17, 0xAD]

/-- Station 2's REPORT of (413, 11): N = +40, d_s = 57. -/
def report11 : List Byte :=
  [0x12, 0x28, 0x01, 0x9D, 0x00, 0x0B, 0x00, 0x00, 0x00, 0x28, 0x03, 0x00, 0x39, 0x7E, 0xC2]

/-- A REPORT of station 5 itself. -/
def ownReport : List Byte :=
  [0x15, 0x28, 0x01, 0x9C, 0x00, 0x25, 0xFF, 0xFF, 0xFF, 0x9C, 0x03, 0x00, 0x56, 0x1B, 0x04]

/-- A REPORT of group 41. -/
def strangeReport : List Byte :=
  [0x12, 0x29, 0x01, 0x9C, 0x00, 0x25, 0x00, 0x00, 0x00, 0x28, 0x03, 0x00, 0x39, 0x4C, 0x31]

/-- A REPORT with length code 6. -/
def badReport : List Byte :=
  [0x12, 0x28, 0x01, 0x9C, 0x00, 0x25, 0x00, 0x00, 0x00, 0x28, 0x06, 0x00, 0x39, 0x95, 0x25]

/-- Station 2's PRESENCE of (413, 12) in RUN, 1406 blocks. -/
def presenceRun : List Byte :=
  [0x22, 0x28, 0x13, 0x01, 0x9D, 0x00, 0x0C, 0x05, 0x7E, 0x83, 0x43]

/-- The same PRESENCE in RESYNC. -/
def presenceResync : List Byte :=
  [0x22, 0x28, 0x23, 0x01, 0x9D, 0x00, 0x0C, 0x05, 0x7E, 0xD7, 0x16]

/-- The part with channel H receiving, its capture taken at this count of the interval. -/
def receiving (s : State) (elapsed since : Nat) : State :=
  { s with
    line := { s.line with h := { s.line.h with recv := .receiving } }
    it := { s.it with captureH := some ⟨elapsed, s.it.id, since⟩ } }

/-- The entry of station 5's own REPORT, waiting on both channels. -/
def ownEntry : Entry :=
  { serial := 0, kind := .report, id := ⟨412, 37⟩, net := -100, statusL := .pending, statusH := .pending }

/-- The part with its REPORT listed and channel L in this access state. -/
def accessing (a : AccessState) (attempts : Nat) (copy : List Byte) : State :=
  { live with
    line :=
      { live.line with
        l :=
          { goodChan with
            access := a
            attempts := attempts
            committed := some 0
            copy := copy
            recv := if a = .sending then .discarding else .ready }
        h := { goodChan with access := .defer, committed := some 0 }
        sendList := [ownEntry]
        outcome := .pending
        nextSerial := 1 } }

/-- The state a command leaves. -/
def ran (i : Instr) (s : State) : State :=
  match exec i s with
  | .next t => t
  | .fault _ => s
  | .refused _ => s

/-! ## Operands that fit their events, and ones that do not -/

theorem test_wellFormed :
    wellFormed (.sampleSetFrame [] 7 true) = true ∧ wellFormed (.completeFrame .l report37) = true
      ∧ wellFormed (.loadConfig block) = true ∧ wellFormed (.unknownCommand 0x0F) = true
      ∧ wellFormed (.discardedTransaction (.beforeActing [0x0A, 0x00])) = true
      ∧ wellFormed (.discardedTransaction (.begun [])) = true := by decide +kernel

theorem test_partialByteRefused : wellFormed (.sampleSetFrame [] 8 true) = false := by decide +kernel

theorem test_frameLengthRefused :
    wellFormed (.completeFrame .l (report37.take 14)) = false
      ∧ wellFormed (.completeFrame .l [0x32]) = false ∧ wellFormed (.completeFrame .h []) = false := by decide +kernel

theorem test_shortBlockRefused : wellFormed (.loadConfig (block.take 125)) = false := by decide +kernel

theorem test_knownCodeRefused : wellFormed (.unknownCommand 0x0E) = false := by decide +kernel

theorem test_actingTransactionRefused :
    wellFormed (.discardedTransaction (.beforeActing [0x0A, 0x00, 0x01])) = false
      ∧ wellFormed (.discardedTransaction (.begun [0x0F])) = false := by decide +kernel

/-! ## Worked examples -/

/-- The products of the example before R17, and its rounding toward minus infinity. -/
theorem test_products :
    formProducts setup (sampleValues (sampleFrame 0x11 0xC6)) = ⟨-60000000, 31657131, 0⟩
      ∧ calibrated 20100 (-1500) 34406 = -31657132 := by decide +kernel

/-- A received set (the gap example and R18): expected 18, and 28,342,869 more export. -/
theorem test_sampleSetFrame :
    (ran (.sampleSetFrame (sampleFrame 0x11 0xC6) 0 false) live).sp.expected = some 18
      ∧ (ran (.sampleSetFrame (sampleFrame 0x11 0xC6) 0 false) live).ne.accExport
          = 1999999 + 28342869
      ∧ (ran (.sampleSetFrame (sampleFrame 0x11 0xC6) 0 false) live).it.elapsed = 10001 := by decide +kernel

/-- A frame whose CRC fails is no arrival (the gap example). -/
theorem test_sampleSetFrame_badCrc :
    (ran (.sampleSetFrame (sampleFrame 0x11 0xC7) 0 false) live) = live := by decide +kernel

/-- The first expiry of the gap example: substituted, count 1, 2560 ticks. -/
theorem test_watchdogExpiry :
    (ran .watchdogExpiry live).sp
        = { live.sp with expected := some 18, missing := 1, watchdog := some 2560 }
      ∧ (ran .watchdogExpiry live).ne.heldSeen = true := by decide +kernel

/-- The example after R23: one quantum, export residue 13,943,616. -/
theorem test_blockClose :
    let s := { blockFull with ne := { blockFull.ne with accImport := 0, accExport := 1813943616, residueExport := 27000000000 } }
    (ran .blockClose s).ne.residueExport = 13943616
      ∧ (ran .blockClose s).rb.expQuanta = 141
      ∧ (totalsOf (ran .blockClose s).rb.totals .b1).exp = 1 := by decide +kernel

/-- The example after R39: the boundary of (412, 37). -/
theorem test_countCompleteBoundary :
    (ran .countCompleteBoundary (completed live)).it.id = ⟨412, 38⟩
      ∧ (ran .countCompleteBoundary (completed live)).it.window = some ⟨412, 37⟩
      ∧ (ran .countCompleteBoundary (completed live)).su.closing = some closing := by decide +kernel

/-- R35: a RESYNC boundary writes its record at once. -/
theorem test_unalignedBoundary :
    (recordAt (ran .unalignedBoundary (completed unaligned)).store 0 0).map (·.flags) = some 4#16
      ∧ (ran .unalignedBoundary (completed unaligned)).it.window = none := by decide +kernel

/-- The examples after R95 and R98: share 70, M 70, X 100, trim -19, cap 5,644,800,000. -/
theorem test_windowClose :
    (recordAt (ran .windowClose windowFull).store 0 0).map
        (fun r => (r.share, r.m, r.x, r.heard, r.expected, r.flags)) = some (70, 70, 100, 0x224#16, 2, 0#16)
      ∧ (ran .windowClose windowFull).it.length = some 2879981
      ∧ (ran .windowClose windowFull).el.pendingCap = some 5644800000 := by decide +kernel

/-- Case B of the matching example, and the trim example's other sum. -/
theorem test_shares :
    matchedShare 50 2 75 20 = 13 ∧ matchedShare 25 2 75 20 = 6 ∧ matchedShare (-20) 2 75 20 = 20
      ∧ trimOf [40, 10, -6] = 7 ∧ trimOf [1] = 0 ∧ trimOf [-11, -11] = -5 := by decide +kernel

/-- R41, R70: the start of a reception fills the capture. -/
theorem test_receptionStart :
    (ran (.receptionStart .h) live).it.captureH = some ⟨10000, ⟨412, 37⟩, 0⟩
      ∧ (ran (.receptionStart .h) live).line.h.recv = .receiving := by decide +kernel

/-- Station 2's REPORT of the open window on H (the example after R95): o = 17 - 57 = -40. -/
theorem test_completeFrame_aligned :
    let s := receiving { windowFull with it := { windowFull.it with elapsed := 50 }, su := { windowFull.su with peers := [peer 2 none] } } 17 27
    (ran (.completeFrame .h report37) s).su.peers.map (·.closing) = [some ⟨40, -40⟩] := by
  decide +kernel

/-- The adoption example: station 2's REPORT (413, 11), d_s = 57, s = 27, gives (413, 12) at 84. -/
theorem test_completeFrame_adopted :
    let t := ran (.completeFrame .h report11) (receiving unaligned 9973 27)
    (t.supply.op, t.it.id, t.it.elapsed, t.it.startPos, t.rb.band) = (.run, ⟨413, 12⟩, 84, 84, .b3)
      ∧ t.line.sendList.map (fun e => (e.kind, e.id)) = [(.presence, ⟨413, 12⟩)]
      ∧ (recordAt t.store 0 0).map (·.flags) = some 5#16
      ∧ (peerOf t.su.peers 2).map (·.state) = some .present := by decide +kernel

/-- R70, R72: a byte error counts against the channel, which discards. -/
theorem test_malformedReception :
    (ran (.malformedReception .h) (receiving live 0 0)).line.h
      = { goodChan with recv := .discarding, errors := 1 } := by decide +kernel

/-- R70: a reception that starves ends, and the channel is ready again. -/
theorem test_receptionTimeout :
    (ran (.receptionTimeout .h) (receiving live 0 0)).line.h = { goodChan with errors := 1 } := by
  decide +kernel

/-- R70: a discarding channel becomes ready. -/
theorem test_receiveReady :
    (ran (.receiveReady .l)
        { live with line := { live.line with l := { goodChan with recv := .discarding } } }).line.l
      = goodChan := by decide +kernel

/-- The exchange on channel L at 5.3: carrier during backoff returns the channel to DEFER. -/
theorem test_carrierSenseChange :
    (ran (.carrierSenseChange .l true) (accessing .backoff 1 [])).line.l.access = .defer
      ∧ (ran (.carrierSenseChange .l true) (accessing .backoff 1 [])).line.l.attempts = 1 := by
  decide +kernel

/-- The exchange on channel L at 9.87: a gap completes and two slots are drawn, 8 ms; the ranges of the
draw with 1 and 7 failed attempts. -/
theorem test_quietGap :
    enterBackoff 2 (accessing .defer 1 []).line.l
        = { (accessing .backoff 1 []).line.l with backoffTimer := some 65536 }
      ∧ backoffRange 1 = 4 ∧ backoffRange 7 = 32 := by decide +kernel

/-- R54, R56, R175: the REPORT of station 5, d_s = 86, byte for byte. -/
theorem test_backoffEnd :
    (ran (.backoffEnd .l)
        { accessing .backoff 0 [] with
          it := { live.it with id := ⟨412, 38⟩, elapsed := 86 } }).line.l.copy = ownReport := by
  decide +kernel

/-- The exchange on channel L at 4.0: a draw of 0 begins the copy at once, its first byte's echo due two
byte times, 8533 ticks, after the 4267 ticks of the byte. -/
theorem test_firstByte :
    let t := ran (.backoffEnd .l) (accessing .backoff 0 [])
    t.line.l.echoTimer = some 12800 ∧ txenPin t .l = true ∧ txdPin t .l 0 = false
      ∧ txdPin { t with line := { t.line with l := goodChan } } .l 0 = true := by decide +kernel

/-- R52: 0x15 on TXD, start bit, eight bits from the least significant, stop bit. -/
theorem test_serialBits :
    serialBits 0x15 = [false, true, false, true, false, true, false, false, false, true]
      ∧ receiveSerial [false, true, false, true, false, true, false, false, false, false]
        = (0x15, true) := by decide +kernel

/-- R55, R56, R175: a PRESENCE in RUN and one in RESYNC, byte for byte. -/
theorem test_presenceFrame :
    presenceFrame { setup with station := 2 } .run ⟨413, 12⟩ 1406 = presenceRun
      ∧ presenceFrame { setup with station := 2 } .resync ⟨413, 12⟩ 1406 = presenceResync := by
  decide +kernel

/-- The exchange at 26.42: the last echo on one channel of two makes the copy SENT. -/
theorem test_echo_last :
    let t := ran (.echo .l 0x04 false) (accessing .sending 0 [0x04])
    t.line.sendList.map (fun e => (e.statusL, e.statusH)) = [(.sent, .pending)]
      ∧ t.line.l.access = .idle := by decide +kernel

/-- The exchange at 4.57: a differing echo is a collision, DEFER with one attempt. -/
theorem test_echo_collision :
    (ran (.echo .l 0x00 false) (accessing .sending 0 ownReport)).line.l.access = .defer
      ∧ (ran (.echo .l 0x00 false) (accessing .sending 0 ownReport)).line.l.attempts = 1 := by
  decide +kernel

/-- R67, R68: the eighth failed attempt drops the copy. -/
theorem test_missingEcho :
    let t := ran (.missingEcho .l) (accessing .sending 7 ownReport)
    t.line.sendList.map (·.statusL) = [.dropped] ∧ t.line.l.errors = 1 := by decide +kernel

/-- R69: the guard makes the channel FAULT and latches CHANNEL. -/
theorem test_jabberGuard :
    (ran (.jabberGuard .l) (accessing .sending 0 ownReport)).line.l.state = .fault
      ∧ (ran (.jabberGuard .l) (accessing .sending 0 ownReport)).alerts.latches = 0x20#9 := by
  decide +kernel

/-- The curtailment example at 3 ms: the third high sample. -/
theorem test_cutoffSample :
    let s := { live with el := { live.el with shed := [1], runCount := 2 } }
    (ran (.cutoffSample true) s).el
        = { live.el with level := true, cutoffLatch := true, cutoffSeen := true }
      ∧ (ran (.cutoffSample true) s).alerts = { Alerts.reset with latches := 2, rearm := .waiting } := by
  decide +kernel

/-- Station 9 loses supply (before R179): SHORT, SUPPLY and SOLO; the send list is emptied. -/
theorem test_holdEntry :
    let t := ran (.holdEntry true) (accessing .defer 0 [])
    (recordAt t.store 0 0).map (·.flags) = some 11#16 ∧ t.supply.op = .hold ∧ t.supply.ret = .resync
      ∧ t.line.sendList = [] ∧ t.alerts.latches = 0x101#9 := by decide +kernel

/-- R151: the release timer runs from PFW's end, and stops as PFW returns. -/
theorem test_pfwInHold :
    (ran .pfwInactive holding).supply.release = some 819200
      ∧ (ran .pfwActiveInHold (ran .pfwInactive holding)).supply.release = none := by decide +kernel

/-- R152: HOLD is left for RESYNC with the successor ID. -/
theorem test_releaseTimer :
    let t := ran .releaseTimer (ran .pfwInactive holding)
    t.supply.op = .resync ∧ t.it.id = ⟨412, 38⟩ ∧ t.rb.band = .unbanded ∧ t.el.settling = true
      ∧ t.line.sendList.map (fun e => (e.kind, e.id)) = [(.presence, ⟨412, 38⟩)] := by decide +kernel

/-- R143, R158: power-on reset clears the retention domain, RESETN keeps it. -/
theorem test_resets :
    let s := { live with ne := { live.ne with residueExport := 77 }, store := blockedStore }
    let power := ran (.powerOnReset (.ended false false)) s
    let resetn := ran (.resetn (.ended false false)) s
    power.ne.residueExport = 0 ∧ power.store = Store.reset
      ∧ resetn.ne.residueExport = 77 ∧ resetn.store = blockedStore ∧ resetn.alerts.latches = 8#9 := by
  decide +kernel

/-- R143, R161: while RESETN is held nothing is served, and a transaction whose CSN fell before its end is
not served either; the next one is. -/
theorem test_heldReset :
    let s := { live with store := blockedStore }
    let u := ran (.resetn .held) s
    let v := ran (.resetn (.ended false true)) u
    u.alerts.latches = 0 ∧ ran (.loadConfig block) u = csnFalls u ∧ ran (.holdEntry true) u = u
      ∧ v.alerts.latches = 8#9 ∧ ran .readAlert v = v
      ∧ (ran .readAlert (ran (.discardedTransaction .afterwards) v)).port.response
        = some [0xA0#8, 4#8] := by decide +kernel

/-- R153: a HOLD entry that comes before the window close of its moment settles the window early, and its
trim is never applied; after it, the length is the trimmed one. -/
theorem test_holdBeforeWindow :
    (ran .windowClose (ran (.holdEntry true) windowFull)).it.length = some 2880000
      ∧ (ran (.holdEntry true) (ran .windowClose windowFull)).it.length = some 2879981
      ∧ (recordAt (ran (.holdEntry true) windowFull).store 0 0).map (·.share) = some 70 := by
  decide +kernel

/-- Station 5 starts (before R179): RUN at (412, 37), elapsed 0, a PRESENCE, OK. -/
theorem test_loadConfig :
    let t := ran (.loadConfig block) State.reset
    configBlock setup (some ⟨⟨412, 37⟩, 0⟩) none = block
      ∧ t.config = some setup ∧ t.supply.op = .run ∧ t.it.id = ⟨412, 37⟩ ∧ t.it.elapsed = 0
      ∧ t.it.presence = 4 ∧ t.line.sendList.map (fun e => (e.kind, e.id)) = [(.presence, ⟨412, 37⟩)]
      ∧ t.port.response = some [0xA0#8] := by decide +kernel

/-- The refused block of the example after R145: the calendar's points at 28 and 28. -/
theorem test_loadConfig_refused :
    let s := { State.reset with supply := { Supply.reset with retentionValid := true, retainedQ := some 28800000000 } }
    (ran (.loadConfig (block.set 24 0x1C)) s).port.response = some [0xA4#8, 10#8]
      ∧ (ran (.loadConfig (block.set 24 0x1C)) s).config = none := by decide +kernel

/-- R178: the first five bytes of the status response, and its length. -/
theorem test_readStatus :
    ((ran .readStatus live).port.response.getD []).take 6 = [0xA0, 1, 0, 1, 1, 0]
      ∧ ((ran .readStatus live).port.response.getD []).length = 150 := by decide +kernel

/-- R165, R178: the retained Q ends the totals response. -/
theorem test_readTotals :
    ((ran .readTotals live).port.response.getD []).drop 61 = [0x06, 0xB4, 0x9D, 0x20, 0x00] := by
  decide +kernel

/-- R137, R176: a record's bytes, and an EMPTY slot. -/
theorem test_readRecord :
    (ran (.readRecord 7 15) { live with store := nearlyBlocked }).port.response
        = some ([0xA0, 0x01, 0x9C, 0x00, 0x42, 0x01, 0x9C, 0x00, 0x42, 1, 0, 0, 1, 0x02, 0x24, 2, 0,
          0, 0, 0, 20, 0, 0, 1, 4, 0, 0, 0, 80, 0, 0, 0, 0, 80, 0, 0, 0, 0, 240, 0, 0])
      ∧ (ran (.readRecord 6 15) { live with store := nearlyBlocked }).port.response = some [0xA7#8] := by
  decide +kernel

/-- The flush of the example after R141: page 7 FILLING, write position 7, slot 1. -/
theorem test_releasePage :
    let t := ran (.releasePage 7) { live with store := blockedStore }
    t.store.writePage = 7 ∧ t.store.writeSlot = 1 ∧ t.store.held = []
      ∧ recordAt t.store 7 0 = some (someRecord .b2) ∧ t.alerts.latches = 0x100#9 := by decide +kernel

/-- The merge of the example after R141: (412, 68) with (412, 69). -/
theorem test_merge :
    let a := { someRecord .b2 with impQuanta := 12, expQuanta := 310, share := 59, m := 140, x := 700 }
    let b :=
      { someRecord .b2 with
        lastId := ⟨412, 69⟩, flags := 0x410#16, heard := 0x220#16, trim := 3, impQuanta := 9
        expQuanta := 402, share := 57, m := 120, x := 820 }
    mergeRecord a b =
      { a with
        lastId := ⟨412, 69⟩, flags := 0x430#16, mergeCount := 2, heard := 0x220#16, impQuanta := 21
        expQuanta := 712, share := 116, m := 260, x := 1520 } := by decide +kernel

/-- The example after R119: WRITE LINES AND with value 3 drops line 2's entry. -/
theorem test_writeLines :
    let s := { live with config := some { setup with wired := 7 }, el := { live.el with latch := 7, shed := [2] } }
    (ran (.writeLines 2 3) s).el = { s.el with latch := 3, shed := [] } := by decide +kernel

/-- The shed example, block 6: line 2 shed, hold-off 10. -/
theorem test_shed :
    let e := { live.el with latch := 7, overCount := 2 }
    judgeBlock { setup with wired := 7 } true 7300000000 e
      = { e with shed := [2], overCount := 0, holdOff := 10, curtailedSeen := true } := by decide +kernel

/-- The shed example, blocks 79 and 92: a restore, and a waiting cap taken before the judgement. -/
theorem test_restoreAndCap :
    let e := { live.el with latch := 7, shed := [2, 1], underCount := 49 }
    judgeBlock { setup with wired := 7 } true 5000000000 e
        = { e with shed := [2], underCount := 0, holdOff := 10, settling := true }
      ∧ judgeBlock setup true 5700000000 { live.el with pendingCap := some 5600000000 }
        = { live.el with effectiveCap := some 5600000000, overCount := 1 } := by decide +kernel

/-- The curtailment example at 50 and at 300 ms. -/
theorem test_releaseCutoff :
    (ran .releaseCutoff { live with el := { live.el with level := true, cutoffLatch := true } }).port.response
        = some [0xA5#8]
      ∧ (ran .releaseCutoff { live with el := { live.el with cutoffLatch := true } }).el
        = { live.el with settling := true } := by decide +kernel

/-- Servicing ALERTN (after R173): STORE_BLOCKED first, acknowledged, then CHANNEL. -/
theorem test_readAlert :
    let s := { live with alerts := { Alerts.reset with latches := 0x128#9 } }
    (ran .readAlert s).port.response = some [0xA0#8, 4#8]
      ∧ (ran .readAlert (ran (.ackAlert 4) s)).port.response = some [0xA0#8, 6#8] := by decide +kernel

/-- Servicing ALERTN, last line: RECORD unmasked asserts ALERTN. -/
theorem test_setMask :
    let s := { live with alerts := { Alerts.reset with latches := 0x100#9 } }
    alertAsserted s.alerts = false ∧ alertAsserted (ran (.setMask 0) s).alerts = true := by
  decide +kernel

/-- The example after R44: (412, 41) at 600,000, and interval-of-day 96 refused. -/
theorem test_setDayPosition :
    let t := ran (.setDayPosition 412 41 600000) live
    (t.it.id, t.it.elapsed, t.it.startPos, t.it.presence) = (⟨412, 41⟩, 600000, 600000, 4)
      ∧ (recordAt t.store 0 0).map (·.flags) = some 9#16
      ∧ (ran (.setDayPosition 412 96 600000) live).port.response = some [0xA3#8] := by decide +kernel

/-- R166, R178: an entry, and the own number. -/
theorem test_readPeer :
    (ran (.readPeer 2) windowFull).port.response
        = some ([0xA0, 1, 6, 0, 0, 0, 0, 0, 0, 0, 0, 0, 0x28, 0xFF, 0xD8] ++ List.replicate 10 0)
      ∧ (ran (.readPeer 5) live).port.response = some [0xA6#8] := by decide +kernel

/-- R76: DISABLE on a GOOD channel, ENABLE on a GOOD one. -/
theorem test_enableChannel :
    (ran (.enableChannel 1 0) live).line.h.state = .off
      ∧ (ran (.enableChannel 1 1) live).port.response = some [0xA6#8] := by decide +kernel

/-- R157: RUN is left for RESYNC with the base cap handed over. -/
theorem test_resync :
    let t := ran .resync live
    t.supply.op = .resync ∧ t.it.id = ⟨412, 38⟩ ∧ t.el.pendingCap = some 5600000000
      ∧ (recordAt t.store 0 0).map (·.flags) = some 13#16 := by decide +kernel

/-- R161, R178. -/
theorem test_otherTransactions :
    (ran (.unknownCommand 0x0F) live).port.response = some [0xA8#8]
      ∧ (ran (.discardedTransaction (.beforeActing [0x0A])) live).port = Port.reset
      ∧ (ran (.discardedTransaction (.begun [0x0A])) live).port.txn = .takingArguments
      ∧ (ran (.discardedTransaction .afterwards) (ran .readAlert live)).port = Port.reset := by
  decide +kernel

/-- R160: ACK ALERT of a clear latch answers 0xA6 on its third byte, most significant bit first, with fill
bytes around it, and its bits change as SCK falls; MISO is not driven while CSN is high. -/
theorem test_miso :
    let t := ran (.ackAlert 4) live
    (List.range 4).map (misoByte t.port) = [some 0x00#8, some 0x00#8, some 0xA6#8, some 0x00#8]
      ∧ (List.range 4).map (fun n => misoPin t (16 + n)) = [some true, some false, some true, some false]
      ∧ misoPin live 0 = none
      ∧ (let sixteen := (List.replicate 16 [true, false]).flatten
        [sixteen, sixteen ++ [true], sixteen ++ [true, false], sixteen ++ [true, false, false, true]].map (misoAfter t)
          = [some true, some true, some false, some false]) := by decide +kernel

/-- R160, R161: with a reset held MISO is not driven while CSN is high, before a transaction and after it. -/
theorem test_misoHeld :
    let u := ran (.resetn .held) live
    misoByte u.port 0 = none
      ∧ misoByte (ran (.discardedTransaction .afterwards) (ran .readAlert u)).port 0 = none := by
  decide +kernel

/-- The levels of clock and data as these bits are clocked in, the data line changing at each falling edge. -/
def clocking (bits : List Bool) : List (Bool × Bool) :=
  bits.flatMap fun b => [(true, b), (false, !b)]

/-- R1, R160: 0x09 and 0x04 bit by bit, most significant first, and three bits more; seven bits more on SDAT,
with SCLK high as SFRM is asserted. -/
theorem test_clockedBits :
    let bits := [false, false, false, false, true, false, false, true,
      false, false, false, false, false, true, false, false, true, true, false]
    transactionOf (clocking bits) = .ackAlert 4
      ∧ sampleFrameOf false (clocking bits) false = .sampleSetFrame [0x09, 0x04] 3 false
      ∧ sampleFrameOf true ((false, true) :: clocking (bits.drop 4)) true
        = .sampleSetFrame [0x90] 7 true := by decide +kernel

/-- R160, R178: what the port reads from bytes written out from the command table. -/
theorem test_transaction :
    transaction [0x0B, 0x01, 0x9C, 0x00, 0x29, 0x00, 0x09, 0x27, 0xC0] = .setDayPosition 412 41 600000
      ∧ transaction [0x06, 0x02, 0x03, 0xFF] = .writeLines 2 3
      ∧ transaction [0x0A, 0x01] = .discardedTransaction (.beforeActing [0x0A, 0x01])
      ∧ transaction [0x00] = .unknownCommand 0 := by decide +kernel

/-- The calendar example after R47, and the day's ends (R33). -/
theorem test_calendar :
    [0, 23, 24, 27, 28, 67, 68, 83, 84, 95].map (bandFor setup.calendar)
        = [.b3, .b3, .b3, .b3, .b1, .b1, .b2, .b2, .b3, .b3]
      ∧ succId 96 ⟨65535, 95⟩ = ⟨0, 0⟩ ∧ predId 96 ⟨0, 0⟩ = ⟨65535, 95⟩ := by decide +kernel

/-! ## Witnesses: the machine -/

/-- A part at work: window open and due, a line shed, a REPORT listed with channel L sending it, page 6
nearly full, a command waiting. -/
def busy : State :=
  { windowFull with
    pending := [.windowClose]
    ne := { NettingEngine.reset with blockSets := 64, accImport := 64 * setBound, residueExport := 28799999999 }
    line :=
      { (accessing .sending 0 ownReport).line with
        sendList := [ownEntry, { ownEntry with serial := 1, kind := .presence, net := 0 }]
        nextSerial := 2 }
    su := { windowFull.su with peers := keyedPeers 5 }
    el := { live.el with shed := [1], pendingCap := some 8000000000, level := true }
    store := nearlyBlocked
    alerts := { Alerts.reset with rearm := .waiting } }

theorem witness_StepRunsTheFrontCommand :
    State.reset.pending = [] ∧ busy.pending = .windowClose :: [] := by decide +kernel

theorem live_intervalLaw (s : State) (hc : s.config = some setup) (hs : s.supply = live.supply)
    (hl : s.it.length = some 2880000) (ht : s.it.trim = 0) (he : s.it.elapsed ≤ 2880000)
    (hp : s.it.startPos ≤ s.it.elapsed) (hq : s.it.startPos < 2880000)
    (hw : s.it.window ≠ none → s.it.elapsed ≤ 9600) : IntervalLaw s := by
  have hlive : isLive s = true := by unfold isLive; rw [hs]; rfl
  refine ⟨?_, fun _ => by simp [hc], fun h => by simp [hlive] at h⟩
  intro c h
  rw [hc] at h
  cases h
  refine ⟨by decide +kernel, by decide +kernel, fun _ => ⟨by omega, by omega, ?_, ?_, hp, hq, hw⟩⟩
  · rw [hl, ht]; decide +kernel
  · rw [ht]; show (s.it.elapsed : Int) ≤ 2880000 + 0; omega

theorem exec_ran (i : Instr) (s : State) : exec i s = .next (ran i s) := by
  simp [ran, exec_after]

/-- A block close is due, and nothing is; a window close is due, with a watchdog expiry and a frame in
order after it. -/
theorem witness_WhatIsDueIsTakenFirst :
    let good := sampleFrame 0x11 0xC6
    nothingDue blockFull = false ∧ nothingDue live = true ∧ takesDueFirst .readStatus = true
      ∧ (windowFull.config = some setup ∧ IntervalLaw windowFull ∧ windowFull.sp.state ≠ .idle
          ∧ windowDue setup windowFull = true ∧ (∃ t, exec .windowClose (takeDue windowFull) = .next t)
          ∧ windowFull.sp.watchdog.isSome = true)
      ∧ good.length = 14 ∧ crc8 (good.take 13) = good.getD 13 0
      ∧ windowFull.sp.expected = some (good.getD 0 0) := by
  refine ⟨by decide +kernel, by decide +kernel, by decide +kernel,
    ⟨rfl, live_intervalLaw _ rfl rfl rfl rfl ?_ ?_ ?_ ?_, ?_, ?_, ⟨_, exec_ran _ _⟩, ?_⟩, ?_⟩ <;>
    decide +kernel

/-- The part while RESETN is held, with a command waiting. -/
def heldReset : State :=
  { ran (.resetn .held) live with pending := [.readAlert] }

theorem heldReset_law : ResetLaw heldReset := by
  unfold ResetLaw ChanSilent
  decide +kernel

/-- A part held in reset, and a command that is neither a reset nor a change of a CS level. -/
theorem witness_ResetnKeepsTheRetentionDomain :
    heldReset.supply.resetHeld = true ∧ ResetLaw heldReset
      ∧ (∀ r, Instr.readAlert ≠ .powerOnReset r ∧ Instr.readAlert ≠ .resetn r)
      ∧ ∀ ch a, Instr.readAlert ≠ .carrierSenseChange ch a :=
  ⟨by decide +kernel, heldReset_law, fun _ => ⟨nofun, nofun⟩, fun _ _ => nofun⟩

/-! ## Witnesses: what every step keeps -/

/-- The busy part takes a step that answers a next state. -/
theorem busy_steps : ∃ t, step busy = .next t :=
  ⟨_, exec_after .windowClose { busy with pending := [] }⟩

theorem nearlyBlocked_law : StoreLaw nearlyBlocked := by
  refine ⟨⟨by decide +kernel, by decide +kernel, ?_, ?_⟩, by decide +kernel, by decide +kernel⟩
  · intro p hp
    have h : p ∈ ([⟨.empty, []⟩, ⟨.filling, List.replicate 15 (someRecord .b1)⟩,
        ⟨.sealed, List.replicate 16 (someRecord .b1)⟩] : List Page) := by
      simp [nearlyBlocked] at hp ⊢
      tauto
    simp only [List.mem_cons, List.not_mem_nil, or_false] at h
    rcases h with rfl | rfl | rfl <;> simp [PageFits]
  · intro n p hp
    have hn : n < 16 := by
      have h := (List.getElem?_eq_some_iff.mp hp).1
      simpa [nearlyBlocked] using h
    have h : nearlyBlocked.pages[n]? = some p := hp
    interval_cases n <;> simp [nearlyBlocked] at h <;> subst h <;> decide +kernel

theorem witness_StoreLawIsKept : StoreLaw busy.store ∧ ∃ t, step busy = .next t :=
  ⟨nearlyBlocked_law, busy_steps⟩

theorem witness_ShedLawIsKept : ShedLaw busy.el ∧ ∃ t, step busy = .next t :=
  ⟨by unfold ShedLaw; decide +kernel, busy_steps⟩

theorem witness_CapLawIsKept : CapLaw busy ∧ ∃ t, step busy = .next t := by
  refine ⟨?_, busy_steps⟩
  intro c h
  cases h
  refine ⟨by decide +kernel, ?_, ?_⟩ <;> intro n h <;> cases h <;> decide +kernel

theorem busy_lineQuiet : LineQuiet busy := by unfold LineQuiet; decide +kernel

theorem witness_LineLawIsKept : LineLaw busy ∧ ∃ t, step busy = .next t := by
  refine ⟨⟨?_, ?_, by decide +kernel, ?_, by decide +kernel, busy_lineQuiet⟩, busy_steps⟩
  · unfold ChanLaw; decide +kernel
  · unfold ChanLaw; decide +kernel
  · unfold ReportsFirst; decide +kernel

theorem witness_SendListIsKeptSettled : SettledLaw busy ∧ ∃ t, step busy = .next t := by
  refine ⟨⟨?_, ?_, ?_, ?_, by decide +kernel, by decide +kernel, by decide +kernel, busy_lineQuiet⟩,
    busy_steps⟩
  · exact ⟨fun _ => ⟨0, by decide +kernel, by decide +kernel, by decide +kernel⟩, by decide +kernel⟩
  · exact ⟨fun _ => ⟨0, by decide +kernel, by decide +kernel, by decide +kernel⟩, by decide +kernel⟩
  · unfold ChanServed; decide +kernel
  · unfold ChanServed; decide +kernel

/-- Under a configuration and without one. -/
theorem witness_PeerViewKeysAreKept :
    (PeerLaw busy ∧ ∃ t, step busy = .next t) ∧ PeerLaw State.reset := by
  refine ⟨⟨⟨?_, nofun⟩, busy_steps⟩, nofun, fun _ => rfl⟩
  intro c h
  cases h
  decide +kernel

theorem witness_EnergyFiguresStayInRange :
    (ResidueLaw busy ∧ CounterLaw busy) ∧ ∃ t, step busy = .next t := by
  refine ⟨⟨⟨?_, fun _ => ⟨28800000000, by decide +kernel⟩⟩, by decide +kernel, by decide +kernel, ?_⟩,
    busy_steps⟩
  · intro c h
    cases h
    decide +kernel
  · intro b
    cases b <;> decide +kernel

theorem witness_SamplingLawsAreKept :
    ((QuietLaw busy ∧ ConfiguredLaw busy ∧ BlockLaw busy) ∧ ∃ t, step busy = .next t)
      ∧ (ResetLaw heldReset ∧ PortLaw heldReset ∧ ∃ t, step heldReset = .next t)
      ∧ PortLaw busy ∧ PortLaw (ran (.resetn (.ended false true)) live) := by
  refine ⟨?_, ⟨heldReset_law, by unfold PortLaw; decide +kernel,
    ⟨_, exec_ran .readAlert { heldReset with pending := [] }⟩⟩, by unfold PortLaw; decide +kernel⟩
  refine ⟨⟨⟨by decide +kernel, by decide +kernel, busy_lineQuiet⟩, ?_, ?_⟩, busy_steps⟩
  · unfold ConfiguredLaw; decide +kernel
  · refine ⟨?_, ?_⟩
    · intro c h
      cases h
      decide +kernel
    · unfold InProductRange; decide +kernel

theorem witness_IntervalAndWindowLawsAreKept :
    (WindowLaw busy ∧ IntervalLaw busy) ∧ ∃ t, step busy = .next t :=
  ⟨⟨by unfold WindowLaw; decide +kernel,
    live_intervalLaw _ rfl rfl rfl rfl (by decide +kernel) (by decide +kernel) (by decide +kernel)
      (by decide +kernel)⟩, busy_steps⟩

theorem witness_AlertLawIsKept : AlertLaw busy ∧ ∃ t, step busy = .next t :=
  ⟨by unfold AlertLaw; decide +kernel, busy_steps⟩

/-! ## Witnesses: measurement and netting -/

/-- The two ends of a gain's range, with the products of the example before R17. -/
theorem witness_CalibratedProductsRoundDown :
    (16384 ≤ 16384 ∧ 16384 ≤ 49151 ∧ 49151 ≤ 49151)
      ∧ calibrated (20100#16).toInt (1500#16).toInt 34406 = 31657131 := by decide +kernel

/-- The two ends of a product's range (R15). -/
theorem witness_NettingModes :
    InProductRange (-1610530817) ∧ InProductRange 1610579968 := by
  unfold InProductRange
  decide +kernel

/-- Clause 1 with a number expected and with the sequence open; clause 2 in each of its cases; levels that carry
a byte and seven bits more. -/
theorem witness_SampleSetFrames :
    let good := sampleFrame 0x11 0xC6
    (nothingDue live = true ∧ live.config = some setup ∧ live.sp.state ≠ .idle ∧ good.length = 14
        ∧ windowDue setup live = false ∧ crc8 (good.take 13) = good.getD 13 0 ∧ live.sp.expected = some (good.getD 0 0))
      ∧ ({ live with sp := { live.sp with expected := none } } : State).sp.expected = none
      ∧ nothingDue State.reset = true ∧ State.reset.sp.state = .idle ∧ (good.take 13).length ≠ 14
      ∧ crc8 ((sampleFrame 0x11 0xC7).take 13) ≠ (sampleFrame 0x11 0xC7).getD 13 0
      ∧ 128 ≤ ((sampleFrame 0x91 0x34).getD 0 0 - 17#8).toNat
      ∧ (let extra := List.replicate 7 true
        extra.length < 8
          ∧ (((List.replicate 15 true).map fun b => (b, !b)).map (·.1))
            = ([0xFF#8].flatMap fun b => (List.range 8).map fun i => b.getLsbD (7 - i)) ++ extra) := by
  decide +kernel

/-- The part after a number of watchdog expiries, with this many sets missing before them. -/
def expiries (missing : Nat) : Nat → State
  | 0 => { live with sp := { live.sp with missing := missing } }
  | n + 1 => ran .watchdogExpiry (expiries missing n)

/-- A frame one ahead, one 127 ahead and one in order, with 62 sets missing; and with 63 missing, where
one more makes the port LOST. -/
theorem witness_ExpiryBeforeAFrameTakesOneOfItsSets :
    (let s := expiries 62 0;
      s.config = some setup ∧ isLive s = true ∧ (∃ t, exec .watchdogExpiry s = .next t)
        ∧ s.sp.state = .running ∧ s.sp.watchdog.isSome = true ∧ s.sp.missing + 1 < 64
        ∧ s.sp.expected = some 17)
      ∧ (∀ f ∈ [sampleFrame 0x12 0x60, sampleFrame 0x90 0x56, sampleFrame 0x11 0xC6],
          f.length = 14 ∧ crc8 (f.take 13) = f.getD 13 0 ∧ (f.getD 0 0 - 17#8).toNat ≤ 127)
      ∧ (let s := expiries 63 0;
        s.config = some setup ∧ s.sp.state = .running ∧ s.sp.watchdog.isSome = true
          ∧ s.sp.expected = some 17 ∧ s.sp.missing < 64 ∧ 64 ≤ s.sp.missing + (0x12#8 - 17#8).toNat
          ∧ ∀ k, exec .watchdogExpiry (expiries 63 k) = .next (expiries 63 (k + 1))) := by
  refine ⟨⟨rfl, rfl, ⟨_, exec_ran _ _⟩, by decide +kernel⟩, by decide +kernel, ?_⟩
  exact ⟨rfl, rfl, rfl, rfl, by decide +kernel, by decide +kernel, fun _ => exec_ran _ _⟩

/-- Counts 0, 2 and 63 before the expiry, and LOST. -/
theorem witness_WatchdogExpiryFillsOneSet :
    ∀ p ∈ [live.sp, { live.sp with missing := 2 }, { live.sp with missing := 63 },
        { live.sp with missing := 64, state := .lost, expected := none }],
      let s := { live with sp := p }
      nothingDue s = true ∧ s.config = some setup ∧ windowDue setup s = false ∧ s.sp.state ≠ .idle
        ∧ s.sp.watchdog.isSome = true := by
  decide +kernel

/-- No block due; a full block; a block of three sets that completes the interval. -/
theorem witness_BlockClose :
    let last := { live with it := { live.it with elapsed := 2880000 } }
    (live.config = some setup ∧ blockDue live = false)
      ∧ (isLive blockFull = true ∧ 64 ≤ blockFull.ne.blockSets)
      ∧ (isLive last = true ∧ 0 < last.ne.blockSets ∧ last.it.length = some 2880000
          ∧ 2880000 ≤ last.it.elapsed)
      ∧ 0 < setup.quantum ∧ blockDue blockFull = true ∧ blockDue last = true := by decide +kernel

/-! ## Witnesses: export headroom and control lines -/

theorem witness_ControlLineActiveExactlyUnderFiveConditions :
    live.config = some setup ∧ ctlOutput live 1 = true ∧ ctlOutput live 2 = false := by decide +kernel

/-- Every case of a block close, each at the end of its range (the shed example after R119). -/
theorem witness_BlockJudgement :
    let e := live.el
    let shed := { e with shed := [1] }
    (e.pendingCap.orElse fun _ => e.effectiveCap) = some 7040000000
      ∧ ({ e with settling := true } : Limiter).settling = true
      ∧ (e.settling = false ∧ 0 < ({ e with holdOff := 1 } : Limiter).holdOff) ∧ e.holdOff = 0
      ∧ (7040000000 < 7040000001 ∧ ({ e with overCount := 1 } : Limiter).overCount < 2)
      ∧ highestActive setup true { e with overCount := 2 } = some 1
      ∧ highestActive setup true { e with overCount := 2, latch := 0 } = none
      ∧ (6160000000 ≤ 7040000000 - 7040000000 / 8 ∧ shed.shed ≠ [])
      ∧ (({ shed with underCount := 48 } : Limiter).underCount + 1 < setup.restoreCount)
      ∧ (setup.restoreCount ≤ ({ shed with underCount := 49 } : Limiter).underCount + 1)
      ∧ (7040000000 ≤ 7040000000 ∧ 7040000000 - 7040000000 / 8 < 6160000001 ∧ e.shed = [])
      ∧ [1, 2, 3].length = ({ e with holdOff := 2, settling := true } : Limiter).holdOff + 1 := by
  decide +kernel

/-- Refused arguments, the last accepted ones, and the three answers to RELEASE CUTOFF. -/
theorem witness_HostControlOfTheLines :
    (nothingDue live = true ∧ live.config = some setup ∧ isLive live = true
        ∧ live.port.serving = true)
      ∧ (2 < (3#8).toNat ∧ 15 < (16#8).toNat ∧ (2#8).toNat ≤ 2 ∧ (15#8).toNat ≤ 15)
      ∧ ∀ e ∈ [{ live.el with level := true }, live.el, { live.el with cutoffLatch := true }],
          nothingDue { live with el := e } = true ∧ isLive { live with el := e } = true := by
  decide +kernel

/-- The four kinds of sample: agreeing, first differing, third differing to active and to inactive. -/
theorem witness_CutoffSample :
    let s := { live with el := { live.el with runCount := 2 } }
    let t := { live with el := { live.el with level := true, runCount := 2 } }
    nothingDue live = true ∧ nothingDue s = true ∧ nothingDue t = true
      ∧ (∀ u ∈ [live, s, t], u.supply.resetHeld = false)
      ∧ (false = live.el.level) ∧ (true ≠ live.el.level ∧ live.el.runCount < 2)
      ∧ (s.el.level = false ∧ 2 ≤ s.el.runCount) ∧ (t.el.level = true ∧ 2 ≤ t.el.runCount) := by
  decide +kernel

/-! ## Witnesses: intervals -/

/-- The last interval of the last day for each length, and the calendar's three cases. -/
theorem witness_IntervalIdsAndBands :
    (∀ code ∈ [0, 1, 2, 3, 4, 5], 65535 < 65536 ∧ perDay code - 1 < perDay code
        ∧ perDay code - 1 + 1 = perDay code ∧ 0 + 1 < perDay code)
      ∧ setup.calendar.Pairwise (fun a b => a.iod < b.iod)
      ∧ (⟨28, .b1⟩ : SwitchPoint) ∈ setup.calendar
      ∧ (∀ q ∈ setup.calendar, q.iod ≤ 28 → q.iod ≤ 28)
      ∧ (∀ q ∈ setup.calendar, 23 < q.iod ∧ q.iod ≤ 84) ∧ ([] : List SwitchPoint) = [] := by
  decide +kernel

/-- Not complete, complete with its block open, complete with its block closed; in RUN and in RESYNC. An early
slot whose offset is 4096, one beyond it on either side, and none. -/
theorem witness_CountCompleteBoundaries :
    (countComplete live = false ∧ countComplete unaligned = false)
      ∧ (∀ s ∈ [live, unaligned],
          let t := completed s
          let open_ := { s with it := { s.it with elapsed := 2880000 } }
          t.config = some setup ∧ countComplete t = true ∧ blockDue t = false
            ∧ open_.config = some setup ∧ countComplete open_ = true ∧ blockDue open_ = true
            ∧ (t.supply.op = .run ∨ t.supply.op = .resync))
      ∧ (let early (n : Nat) : PeerEntry := { peer 2 none with early := some ⟨40, n, 57⟩ }
        (∀ n ∈ [2884153, 2875961], ∃ e, (early n).early = some e
          ∧ ((e.elapsed : Int) - (2880000 : Nat) - e.delay).natAbs ≤ 4096)
          ∧ (∀ n ∈ [2884154, 2875960], ∃ e, (early n).early = some e
            ∧ 4096 < ((e.elapsed : Int) - (2880000 : Nat) - e.delay).natAbs)
          ∧ (peer 2 none).early = none) := by
  refine ⟨by decide +kernel, by decide +kernel, ?_, ?_, rfl⟩ <;> intro n hn <;>
    refine ⟨_, rfl, ?_⟩ <;> simp only [List.mem_cons, List.not_mem_nil, or_false] at hn <;>
    rcases hn with rfl | rfl <;> decide +kernel

theorem witness_WindowClose :
    (live.config = some setup ∧ windowDue setup live = false)
      ∧ windowFull.config = some setup ∧ windowDue setup windowFull = true
      ∧ windowFull.su.closing = some closing := by decide +kernel

/-- A window that is open and not due and one that is due; an open block of three sets and none. -/
theorem witness_EarlyClosesSettleAsTheTimelyOnes :
    let early := { windowFull with it := { windowFull.it with elapsed := 5000 } }
    (∀ s ∈ [early, windowFull], s.config = some setup ∧ isLive s = true ∧ s.it.window.isSome = true
        ∧ s.su.closing = some closing)
      ∧ windowDue setup early = false ∧ windowDue setup windowFull = true
      ∧ live.it.window = none ∧ windowFull.ne.blockSets = 0
      ∧ (0 < live.ne.blockSets ∧ blockDue live = false) := by
  decide +kernel

/-- Both states, the first refused and the last accepted position. -/
theorem witness_SetDayPosition :
    (∀ s ∈ [live, unaligned], nothingDue s = true ∧ s.config = some setup ∧ isLive s = true
        ∧ s.port.serving = true)
      ∧ live.supply.op = .run ∧ unaligned.supply.op = .resync
      ∧ (perDay 3 ≤ (96#16).toNat ∧ (95#16).toNat < perDay 3)
      ∧ (nominalLength 3 ≤ (2880000#32).toNat ∧ (2879999#32).toNat < nominalLength 3) := by
  decide +kernel

theorem witness_ResyncCommand :
    nothingDue live = true ∧ live.config = some setup ∧ live.supply.op = .run
      ∧ live.port.serving = true := by decide +kernel

/-! ## Witnesses: peer views and settlement -/

/-- An importer, an exporter, a net of 0 and nothing heard; the record of the window of the example. -/
theorem witness_OwnMatchedShare :
    ([40, 30] : List Int) ≠ [] ∧ (0 : Int) < 40 ∧ (-100 : Int) < 0 ∧ (0 : Int) = 0
      ∧ closing.net = -100 ∧ heardNets windowFull.su.peers = [40, 30] := by decide +kernel

/-- Sums at and beyond the limits of the trim, caps at each other, and a peer of each kind. -/
theorem witness_WhatASettlementGives :
    (([65] : List Int).sum.natAbs / (2 * 1) ≤ 32 ∧ 32 < ([-66] : List Int).sum.natAbs / (2 * 1))
      ∧ setup.baseCap ≤ setup.ceilingCap
      ∧ ({ setup with ceilingCap := setup.baseCap } : Setup).baseCap ≤ setup.baseCap
      ∧ ((peer 2 none).counted = true ∧ (peer 2 none).closing = none)
      ∧ ((clearedPeer (some 2)).counted = false) ∧ (peer 9 (some ⟨30, -39⟩)).closing ≠ none := by
  decide +kernel

/-- Every test of R82 in its order, with the capture that each needs. -/
theorem witness_FrameReachesTheSettlementUnit :
    let f := readFrame report37
    let it := windowFull.it
    let prev := predId 96 it.id
    (readFrame presenceRun).body = .presence 1 1406 ∧ f.body = .report 40 57
      ∧ (readFrame badReport).lengthCode ≠ setup.lengthCode
      ∧ (f.lengthCode = setup.lengthCode ∧ f.id = prev ∧ it.window = some prev
          ∧ windowFull.su.closing = some closing)
      ∧ ((⟨17, it.id, 27⟩ : Capture).id = it.id)
      ∧ ((⟨2879973, f.id, 27⟩ : Capture).id ≠ it.id ∧ (⟨2879973, f.id, 27⟩ : Capture).id = f.id)
      ∧ ((⟨5, ⟨0, 0⟩, 0⟩ : Capture).id ≠ it.id ∧ (⟨5, ⟨0, 0⟩, 0⟩ : Capture).id ≠ f.id)
      ∧ (f.id = live.it.id ∧ ¬ (f.id = predId 96 live.it.id ∧ live.it.window = some (predId 96 live.it.id)))
      ∧ (f.id ≠ (⟨412, 38⟩ : IntervalId) ∧ live.it.window ≠ some f.id ∧ f.id = predId 96 ⟨412, 38⟩)
      ∧ (f.id ≠ (⟨412, 39⟩ : IntervalId) ∧ f.id ≠ predId 96 ⟨412, 39⟩
          ∧ f.id = predId 96 (predId 96 ⟨412, 39⟩))
      ∧ (f.id ≠ (⟨412, 40⟩ : IntervalId) ∧ f.id ≠ predId 96 ⟨412, 40⟩
          ∧ f.id ≠ predId 96 (predId 96 ⟨412, 40⟩)) := by decide +kernel

theorem witness_EarlyAndAlignedGiveTheSameSlot :
    let f := readFrame report37
    setup.lengthCode ≤ 5 ∧ live.it.id.day < 65536 ∧ live.it.id.iod < perDay setup.lengthCode
      ∧ f.body = .report 40 57 ∧ f.lengthCode = setup.lengthCode ∧ f.id = live.it.id
      ∧ (⟨2879973, ⟨412, 37⟩, 27⟩ : Capture).id = live.it.id ∧ live.it.window = none
      ∧ clearedPeer (some 2) ∈ live.su.peers ∧ (clearedPeer (some 2)).station = some f.station
      ∧ (clearedPeer (some 2)).closing = none ∧ (clearedPeer (some 2)).early = none
      ∧ (live.su.peers.map (·.station)).Nodup ∧ (∀ q ∈ live.su.peers, q.early = none) := by
  decide +kernel

/-! ## Witnesses: the group line -/

/-- A full list with a PRESENCE and one without, its oldest entry sent on a channel or on none, a shorter one, a barred line, and a kind and ID that the
list holds and one that it does not. -/
theorem witness_FramesJoinTheSendList :
    let presence := { ownEntry with kind := FrameKind.presence, net := 0 }
    let mixed := [ownEntry, ownEntry, presence, presence]
    let reports := [ownEntry, ownEntry, ownEntry, ownEntry]
    (ReportsFirst mixed ∧ mixed.length ≤ 4) ∧ (ReportsFirst reports ∧ reports.length ≤ 4)
      ∧ (ReportsFirst (mixed.drop 1) ∧ (mixed.drop 1).length < 4)
      ∧ (mixed.length = 4 ∧ (mixed.filter fun x => x.kind == .presence) ≠ [])
      ∧ (∀ e ∈ [ownEntry, { ownEntry with statusH := .sent }],
          let list := e :: reports.drop 1
          ReportsFirst list ∧ list.length = 4 ∧ (list.filter fun x => x.kind == .presence) = [])
      ∧ ({ live.line with barred := true } : Line).barred = true ∧ live.line.barred = false
      ∧ (∃ e ∈ mixed, e.kind = .report ∧ e.id = ⟨412, 37⟩)
      ∧ (∃ e ∈ mixed, e.kind = .presence ∧ e.id = ⟨412, 37⟩)
      ∧ (∀ e ∈ mixed, e.kind = .report → e.id ≠ ⟨412, 38⟩)
      ∧ (∀ e ∈ mixed, e.kind = .presence → e.id ≠ ⟨412, 38⟩) := by
  unfold ReportsFirst
  decide +kernel

/-- Every receive state; error counts 31 and 255 at a reception that fails. -/
theorem witness_ReceptionsBeginAndFail :
    (∀ r ∈ [RecvState.ready, .receiving, .waitQuiet, .discarding, .off],
        let s := { live with line := { live.line with l := { goodChan with recv := r } } }
        nothingDue s = true ∧ s.line.l.access ≠ .sending ∧ s.line.l.recv = r)
      ∧ (∀ n ∈ [0, 31, 255],
          let s := { live with line := { live.line with l := { goodChan with recv := .receiving, errors := n } } }
          nothingDue s = true ∧ s.line.l.state ≠ .off ∧ s.line.l.recv = .receiving ∧ s.config = some setup)
      ∧ (expectedLength (badReport.getD 0 0) = some badReport.length ∧ frameCheck badReport = true
          ∧ frameMalformed (readFrame badReport) = true)
      ∧ (expectedLength ((ownReport.set 14 0).getD 0 0) = some (ownReport.set 14 0).length
          ∧ frameCheck (ownReport.set 14 0) = false) := by decide +kernel

/-- What a frame and a state must be to reach the last checks of R71. -/
def arrives (s : State) (bytes : List Byte) : Prop :=
  nothingDue s = true ∧ s.config = some setup ∧ (chanOf s.line .h).state ≠ .off
    ∧ (chanOf s.line .h).recv = .receiving ∧ expectedLength (bytes.getD 0 0) = some bytes.length
    ∧ frameCheck bytes = true ∧ frameMalformed (readFrame bytes) = false

/-- The key of a received frame. -/
def keyOf (bytes : List Byte) : FilterKey :=
  ⟨(readFrame bytes).station, frameKind (readFrame bytes), (readFrame bytes).id⟩

/-- Another group, the own station number, and a duplicate; the other channel in each access state as transmit
becomes barred, with a REPORT in the list and without one. -/
theorem witness_FramesThatAreDropped :
    let s := receiving live 9973 27
    let t := { s with line := { s.line with filter := [keyOf report37] } }
    (arrives s strangeReport ∧ (readFrame strangeReport).group ≠ setup.group)
      ∧ (arrives s ownReport ∧ (readFrame ownReport).group = setup.group
          ∧ (readFrame ownReport).station = setup.station)
      ∧ (∀ a ∈ [AccessState.idle, .defer, .backoff, .sending],
          let u := receiving (accessing a 3 ownReport) 9973 27
          arrives u ownReport ∧ u.line.l.access = a
            ∧ (u.line.sendList.filter fun e => e.kind == .report) = [ownEntry])
      ∧ s.line.sendList = []
      ∧ (arrives t report37 ∧ (readFrame report37).group = setup.group
          ∧ (readFrame report37).station ≠ setup.station ∧ keyOf report37 ∈ t.line.filter) := by
  unfold arrives
  decide +kernel

/-- An accepted REPORT and PRESENCE; a filter with three and with four keys of one station and kind. -/
theorem witness_FrameAcceptedInRun :
    let s := receiving live 9973 27
    let keys : List FilterKey :=
      [⟨2, .report, ⟨0, 1⟩⟩, ⟨2, .report, ⟨0, 2⟩⟩, ⟨2, .report, ⟨0, 3⟩⟩, ⟨2, .report, ⟨0, 4⟩⟩]
    (∀ b ∈ [report37, presenceRun, presenceResync],
        arrives s b ∧ s.supply.op = .run ∧ (readFrame b).group = setup.group
          ∧ (readFrame b).station ≠ setup.station ∧ keyOf b ∉ s.line.filter)
      ∧ (keysUnder (keyOf report37) (keys.drop 1)).length < 4
      ∧ (keysUnder (keyOf report37) keys).length = 4 := by
  unfold arrives
  decide +kernel

/-- A REPORT and a PRESENCE with state RUN that give timing; one with state RESYNC that gives none. -/
theorem witness_AdoptionOfTiming :
    let s := receiving unaligned 9973 27
    (∀ b ∈ [report11, presenceRun, presenceResync],
        arrives s b ∧ s.supply.op = .resync ∧ s.it.window = none
          ∧ captureOf s.it .h = some ⟨9973, ⟨412, 37⟩, 27⟩
          ∧ (readFrame b).group = setup.group ∧ (readFrame b).station ≠ setup.station
          ∧ (readFrame b).lengthCode = setup.lengthCode ∧ keyOf b ∉ s.line.filter)
      ∧ (readFrame report11).body = .report 40 57 ∧ (readFrame presenceRun).body = .presence 1 1406
      ∧ (readFrame presenceResync).body = .presence 2 1406 := by
  unfold arrives
  decide +kernel

/-- Every access state under a change of CS and the same level; a completed gap, attempts 0 and 7. -/
theorem witness_CarrierSenseAndBackoff :
    (∀ a ∈ [AccessState.idle, .defer, .backoff, .sending],
        nothingDue (accessing a 0 []) = true ∧ (accessing a 0 []).line.l.cs ≠ true
          ∧ (accessing a 0 []).line.l.access = a)
      ∧ ∀ n ∈ [0, 7], nothingDue (accessing .defer n []) = true
          ∧ (accessing .defer n []).line.l.cs = false := by decide +kernel

/-- A REPORT with the largest delay and with one more, and a PRESENCE. -/
theorem witness_BackoffEndBeginsSending :
    let s := accessing .backoff 0 []
    let at_ (n : Nat) : State := { s with it := { s.it with elapsed := n } }
    let p := { ownEntry with kind := FrameKind.presence, net := 0 }
    (∀ n ∈ [65535, 65536], nothingDue (at_ n) = true ∧ (at_ n).config = some setup
        ∧ (at_ n).line.l.access = .backoff ∧ (at_ n).line.l.cs = false
        ∧ (at_ n).line.l.committed = some ownEntry.serial
        ∧ ((at_ n).line.sendList.find? fun x => x.serial == ownEntry.serial) = some ownEntry)
      ∧ ownEntry.kind = .report ∧ p.kind = .presence
      ∧ (([p] : List Entry).find? fun x => x.serial == p.serial) = some p := by decide +kernel

/-- The first and the last byte of a copy, the seventh and the eighth failure, a channel that lapsed, an
entry that has left the list, and an idle channel; a committed REPORT, a committed PRESENCE and an entry that
is not committed. -/
theorem witness_AttemptsEnd :
    let s (a : Nat) (copy : List Byte) : State := accessing .sending a copy
    let lapsed (a : Nat) : State :=
      { s a ownReport with line := { (s a ownReport).line with l := { (s a ownReport).line.l with lapsed := true } } }
    let gone : State := { s 0 ownReport with line := { (s 0 ownReport).line with sendList := [] } }
    (∀ t ∈ [s 0 ownReport, s 6 ownReport, s 7 ownReport, lapsed 6, gone, s 0 [0x04]],
        nothingDue t = true ∧ t.line.l.access = .sending ∧ t.line.l.copy ≠ [])
      ∧ ownReport = 0x15 :: ownReport.drop 1 ∧ ownReport.drop 1 ≠ []
      ∧ (inList (s 6 ownReport).line.sendList (some 0) = true ∧ (s 6 ownReport).line.l.attempts < 7
          ∧ (s 6 ownReport).line.l.lapsed = false ∧ inSendingSet (s 6 ownReport).line .l = true)
      ∧ (7 ≤ (s 7 ownReport).line.l.attempts) ∧ (lapsed 6).line.l.lapsed = true
      ∧ inList gone.line.sendList (some 0) = false
      ∧ (∀ n ∈ [0, 31, 255],
          let k := { (s 6 ownReport).line.l with errors := n }
          let counted : Line := { (s 6 ownReport).line with l := { k with errors := min 255 (n + 1) } }
          (k.state = .good ∨ k.state = .degraded)
            ∧ inList (judgeLine true counted).sendList (some 0) = true
            ∧ (chanOf (judgeLine true counted) .l).lapsed = false)
      ∧ (let degraded : Line := { (s 6 ownReport).line with l := { (s 6 ownReport).line.l with state := .degraded } }
        (chanOf (judgeLine true degraded) .l).lapsed = true)
      ∧ ((chanOf live.line .l).access ≠ .sending ∧ (chanOf live.line .l).access ≠ .backoff
          ∧ nothingDue live = true)
      ∧ (let p := { ownEntry with serial := 1, kind := FrameKind.presence, net := 0 }
        let list := [ownEntry, p]
        (list[0]? = some ownEntry ∧ some 0 = some ownEntry.serial ∧ ownEntry.kind = .report)
          ∧ (list[1]? = some p ∧ some 0 ≠ some p.serial)
          ∧ ¬ ∃ e ∈ list, e.kind = .report ∧ some 1 = some e.serial) := by decide +kernel

/-- The first refused arguments, and each channel state under each action. -/
theorem witness_EnableChannel :
    (1 < (2#8).toNat ∧ (1#8).toNat = 1 ∧ (0#8).toNat = 0)
      ∧ ∀ k ∈ [ChanState.off, .fault, .good, .degraded],
          let s := { live with line := { live.line with h := { goodChan with state := k } } }
          nothingDue s = true ∧ isLive s = true ∧ s.port.serving = true ∧ s.line.h.state = k := by decide +kernel

/-- The largest fields, and a received frame of each kind. -/
theorem witness_OwnFramesReadBack :
    ((report37.getD 0 0).toNat / 16 = 1 ∧ report37.length = 15)
      ∧ ((presenceRun.getD 0 0).toNat / 16 = 2 ∧ presenceRun.length = 11 ∧ 7 + 3 < 11)
      ∧ (15 < 16 ∧ 255 < 256 ∧ 7 < 8 ∧ 65535 < 65536)
      ∧ ((-2 ^ 31 : Int) ≤ -2 ^ 31 ∧ (2 ^ 31 - 1 : Int) < 2 ^ 31) := by decide +kernel

/-! ## Witnesses: the record store -/

/-- The last merge that counts and one that does not. -/
theorem witness_MergeOfRecords :
    (someRecord .b1).mergeCount = 1 ∧ (someRecord .b1).flags.getLsbD 5 = false
      ∧ ({ someRecord .b1 with mergeCount := 254 } : Record).mergeCount < 255
      ∧ ¬ ({ someRecord .b1 with mergeCount := 255 } : Record).mergeCount < 255
      ∧ (someRecord .b1).band = (someRecord .b1).band := by decide +kernel

/-- An open store at its first slot and at a page's last, and a blocked one with and without an entry of
the band. -/
theorem witness_RecordsReachTheStore :
    (PagesLaw nearlyBlocked ∧ storeBlocked nearlyBlocked = false ∧ nearlyBlocked.writeSlot = 15)
      ∧ (storeBlocked Store.reset = false ∧ Store.reset.writeSlot < 15)
      ∧ (15 ≠ nearlyBlocked.writePage)
      ∧ storeBlocked blockedStore = true
      ∧ (blockedStore.held = [] ++ someRecord .b2 :: [] ∧ (someRecord .b2).band = .b2)
      ∧ (∀ x ∈ blockedStore.held, x.band ≠ .unbanded) :=
  ⟨⟨nearlyBlocked_law.1, by decide +kernel⟩, by decide +kernel⟩

theorem blockedStore_law : StoreLaw blockedStore := by
  refine ⟨⟨by decide +kernel, by decide +kernel, ?_, ?_⟩, by decide +kernel, by decide +kernel⟩
  · intro p hp
    have h : p ∈ ([⟨.empty, []⟩, ⟨.sealed, List.replicate 16 (someRecord .b1)⟩] : List Page) := by
      simp [blockedStore] at hp ⊢
      tauto
    simp only [List.mem_cons, List.not_mem_nil, or_false] at h
    rcases h with rfl | rfl <;> simp [PageFits]
  · intro n p hp
    have hn : n < 16 := by
      have h := (List.getElem?_eq_some_iff.mp hp).1
      simpa [blockedStore, nearlyBlocked] using h
    have h : blockedStore.pages[n]? = some p := hp
    interval_cases n <;> simp [blockedStore] at h <;> subst h <;> decide +kernel

/-- A number above 15; a FILLING, an EMPTY, a SEALED page, and the SEALED page at the write position with
a held entry and without one. -/
theorem witness_ReleasePage :
    let s := { live with store := nearlyBlocked }
    let t := { live with store := blockedStore }
    (nothingDue s = true ∧ StoreLaw s.store) ∧ (nothingDue t = true ∧ StoreLaw t.store)
      ∧ (s.port.serving = true ∧ t.port.serving = true)
      ∧ 15 < (16#8).toNat
      ∧ (s.store.pages[6]?.map (·.state) = some .filling ∧ s.store.pages[15]?.map (·.state) = some .empty)
      ∧ (s.store.pages[7]?.map (·.state) = some .sealed ∧ 7 ≠ s.store.writePage)
      ∧ (t.store.pages[7]?.map (·.state) = some .sealed ∧ 7 = t.store.writePage) :=
  ⟨⟨by decide +kernel, nearlyBlocked_law⟩, ⟨by decide +kernel, blockedStore_law⟩, by decide +kernel⟩

/-! ## Witnesses: start, hold and resynchronisation -/

theorem witness_HoldEntry :
    (∀ s ∈ [State.reset, live, unaligned, holding, windowFull],
        nothingDue s = true ∧ s.supply.resetHeld = false)
      ∧ State.reset.supply.op = .start ∧ holding.supply.op = .hold
      ∧ (∀ s ∈ [live, unaligned], s.config = some setup ∧ isLive s = true) := by decide +kernel

/-- HOLD with PFW active, with the timer running to RESYNC and to START, and another state. -/
theorem witness_LeavingHold :
    let timing := { holding with supply := { holding.supply with pfw := false, release := some 819200 } }
    let fromStart := { timing with supply := { timing.supply with ret := .start } }
    (holding.supply.op = .hold ∧ holding.supply.pfw = true ∧ holding.supply.release = none)
      ∧ (∀ s ∈ [timing, fromStart], s.supply.op = .hold ∧ s.supply.release ≠ none ∧ s.supply.pfw = false)
      ∧ (timing.config = some setup ∧ timing.supply.ret = .resync ∧ fromStart.supply.ret = .start)
      ∧ live.supply.op ≠ .hold := by decide +kernel

/-- With a day position and without one, retention valid and not, PFW inactive and active; the fields of a
configuration, in range and at the ends of their fields. -/
theorem witness_LoadConfigAccepted :
    let kept := { State.reset with supply := { Supply.reset with retentionValid := true, retainedQ := some 28800000000 } }
    let warned := { kept with supply := { kept.supply with pfw := true } }
    let most : SwitchPoint := ⟨65535, .b3⟩
    (∀ s ∈ [State.reset, kept, warned], s.config = none ∧ s.supply.op = .start
        ∧ s.port.serving = true ∧ s.ne.blockSets = 0 ∧ s.supply.resetHeld = false)
      ∧ (kept.supply.pfw = false ∧ warned.supply.pfw = true)
      ∧ (∀ b ∈ [block, block.set 57 0, block.set 75 1], b.length = 126 ∧ configFailure b none = none
          ∧ configFailure b (some 28800000000) = none)
      ∧ ∀ c ∈ [setup, { setup with station := 255, group := 255, gain1 := 65535, presence := 255 },
            { setup with lengthCode := 255, calendar := List.replicate 8 most }],
          c.station < 256 ∧ c.group < 256 ∧ c.gain1 < 65536 ∧ c.gain2 < 65536 ∧ c.gain3 < 65536
            ∧ c.quantum < 2 ^ 40 ∧ c.lengthCode < 256 ∧ c.calendar.length ≤ 8
            ∧ (∀ p ∈ c.calendar, p.iod < 65536 ∧ p.band ≠ .unbanded) ∧ c.baseCap < 2 ^ 40
            ∧ c.ceilingCap < 2 ^ 40 ∧ c.holdOffLength < 65536 ∧ c.restoreCount < 65536
            ∧ c.presence < 256 ∧ 2 ^ 32 - 1 < 2 ^ 32 ∧ c.creep < 2 ^ 32 := by decide +kernel

/-! ## Witnesses: the readout port and the alerts -/

/-- START, HOLD and RESYNC; the first and the last field of a block that fails. -/
theorem witness_RefusedCommandsChangeNothing :
    (∀ s ∈ [State.reset, holding], nothingDue s = true ∧ isLive s = false ∧ s.port.serving = true)
      ∧ (nothingDue unaligned = true ∧ unaligned.port.serving = true ∧ unaligned.supply.op ≠ .run ∧ unaligned.supply.op ≠ .start)
      ∧ (block.length = 126 ∧ State.reset.supply.op = .start)
      ∧ ((1, false) ∈ configChecks (block.set 0 16) none
          ∧ ∀ p ∈ configChecks (block.set 0 16) none, p.1 < 1 → p.2 = true)
      ∧ ((16, false) ∈ configChecks (block.set 57 2) none
          ∧ ∀ p ∈ configChecks (block.set 57 2) none, p.1 < 16 → p.2 = true) := by decide +kernel

/-- Arguments at the ends of their ranges, a slot with a record and one without, an entry of the view; a
status in RUN, in START and in HOLD from START and from RUN; fields present and absent. -/
theorem witness_ReadingsChangeNothing :
    let s := { live with store := nearlyBlocked }
    let fromStart := { holding with supply := { holding.supply with ret := .start } }
    let bare := { live with it := { live.it with length := none }, el := Limiter.reset }
    (nothingDue s = true ∧ s.store.pages.length = 16 ∧ s.config = some setup ∧ isLive s = true
        ∧ s.port.serving = true)
      ∧ PeerLaw s ∧ ((-128 : Int) ≤ -128 ∧ (127 : Int) ≤ 127) ∧ (15 < (16#8).toNat ∧ (15#8).toNat ≤ 15)
      ∧ (recordAt s.store 7 15 = some (someRecord .b1) ∧ recordAt s.store 15 15 = none)
      ∧ ((5#8).toNat = setup.station ∧ (15#8).toNat ≠ setup.station)
      ∧ (∀ u ∈ [s, State.reset, fromStart, holding, windowFull, bare], u.store.pages.length = 16)
      ∧ s.supply.op = .run ∧ State.reset.supply.op = .start
      ∧ (fromStart.supply.op = .hold ∧ fromStart.supply.ret = .start)
      ∧ (holding.supply.op = .hold ∧ holding.supply.ret ≠ .start)
      ∧ (s.it.window = none ∧ windowFull.it.window = some ⟨412, 37⟩ ∧ s.el.pendingCap = none)
      ∧ bare.supply.op = .run ∧ bare.it.length = none ∧ bare.el.effectiveCap = none := by
  refine ⟨by decide +kernel, ⟨?_, nofun⟩, by decide +kernel⟩
  intro c h
  cases h
  decide +kernel

/-- RECORD alone, unmasked; RECORD masked; SUPPLY masked by nothing. -/
theorem witness_ReadAlert :
    let a : Alerts := { latches := 0x100#9, mask := 0, rearm := .armed }
    let shows (a : Alerts) (n : Nat) : Bool :=
      a.latches.getLsbD (n - 1) && (n == 1 || !a.mask.getLsbD (n - 1))
    nothingDue { live with alerts := a } = true ∧ live.port.serving = true ∧ shows a 9 = true
      ∧ (∀ m ∈ [1, 2, 3, 4, 5, 6, 7, 8], shows a m = false)
      ∧ (∀ m ∈ [1, 2, 3, 4, 5, 6, 7, 8, 9], shows { a with mask := 0x1FE#9 } m = false)
      ∧ shows { a with latches := 1, mask := 0x1FF#9 } 1 = true := by decide +kernel

/-- Codes 0, 1, 9 and 10, with the latch set and clear; the first mask refused and the last taken. -/
theorem witness_AckAlertAndSetMask :
    let s := { live with alerts := { Alerts.reset with latches := 0x100#9 } }
    nothingDue s = true ∧ s.port.serving = true ∧ ((0#8).toNat = 0 ∧ 9 < (10#8).toNat)
      ∧ (s.alerts.latches.getLsbD ((1#8).toNat - 1) = false ∧ s.alerts.latches.getLsbD ((9#8).toNat - 1) = true)
      ∧ (512 ≤ (0x200#16).toNat ∧ (0x1FF#16).toNat < 512) := by decide +kernel

/-- The ends of the codes that name no command; transactions that begin, and one that ends before acting;
a port that does not serve, a command and a transaction that begins there; a port that is idle, takes a
command and takes arguments, with CSN high and low. -/
theorem witness_TransactionsThatDoNotAct :
    ((0x00#8).toNat = 0 ∧ 14 < (0x0F#8).toNat ∧ live.port.serving = true)
      ∧ (notYetActing [] = true ∧ notYetActing [0x0A, 0x00] = true)
      ∧ (block.take 125).length < 126
      ∧ (nothingDue heldReset = true ∧ heldReset.port.serving = false)
      ∧ (wellFormed (.setMask 0) = true ∧ mosi (.setMask 0) ≠ none
          ∧ wellFormed (.discardedTransaction (.begun [0x0A])) = true)
      ∧ (live.port.txn = .idle ∧ live.port.csnLow = false ∧ heldReset.port.csnLow = false)
      ∧ ¬ (([] : List Bool).getLast? = some true ∧ true = false)
      ∧ (∀ bytes ∈ [[], [0x0A#8]],
          let t := ran (.discardedTransaction (.begun bytes)) live
          t.port.serving = true ∧ t.port.csnLow = true ∧ (t.port.txn = .takingCommand ∨ t.port.txn = .takingArguments)) := by
  decide +kernel

theorem witness_TransactionBytesSpellTheCommand :
    (wellFormed (.setMask 0x1FF) = true ∧ mosi (.setMask 0x1FF) = some [0x0A, 0x01, 0xFF])
      ∧ (wellFormed (.discardedTransaction (.beforeActing [0x0A, 0x01])) = true
          ∧ mosi (.discardedTransaction (.beforeActing [0x0A, 0x01])) = some [0x0A, 0x01])
      ∧ ((List.replicate 7 true).length < 8
          ∧ ((List.replicate 15 true).map fun b => (b, !b)).map (·.1)
            = ([0xFF#8].flatMap fun b => (List.range 8).map fun i => b.getLsbD (7 - i))
              ++ List.replicate 7 true)
      ∧ (wellFormed (.loadConfig block) = true ∧ mosi (.loadConfig block) = some (0x01 :: block)) := by
  decide +kernel

/-! ## Witnesses: the send list at once -/

/-- Channels outside the set and in it, idle, waiting with their entry listed and gone, and sending; an
entry PENDING after one that is not. -/
theorem witness_WhatFollowsOnTheLine :
    let fault (l : Line) : Line := { l with l := { l.l with state := .fault } }
    let idle : Line := { (accessing .defer 0 []).line with l := goodChan }
    let second := { ownEntry with serial := 1, kind := FrameKind.presence, net := 0 }
    let sentFirst : Line :=
      { idle with sendList := [{ ownEntry with statusL := .sent }, second], nextSerial := 2 }
    (∀ l ∈ [idle, (accessing .defer 0 []).line, (accessing .sending 0 ownReport).line],
        inSendingSet l .l = true ∧ inSendingSet (fault l) .l = false)
      ∧ (idle.l.access = .idle ∧ (accessing .defer 0 []).line.l.access = .defer
          ∧ (accessing .backoff 0 []).line.l.access = .backoff
          ∧ (accessing .sending 0 ownReport).line.l.access = .sending)
      ∧ ((∃ e ∈ (judgeLine true (accessing .defer 0 []).line).sendList,
            (accessing .defer 0 []).line.l.committed = some e.serial)
          ∧ (judgeLine true { (accessing .defer 0 []).line with sendList := [] }).sendList = [])
      ∧ ((judgeLine true sentFirst).sendList = [{ ownEntry with statusL := .sent }] ++ second :: []
          ∧ sentFirst.barred = false ∧ second.statusL = .pending)
      ∧ (judgeLine true sentFirst).l.committed = some 1 := by
  decide +kernel

end Sys2Proof.Tests
end

section
/-! SUPPORT. Measurement and netting: the values after power-on reset, products, netting modes, the close
of a block and the set that a watchdog expiry fills. -/

namespace Sys2Proof.Machine

/-! ## After power-on reset -/

theorem reset_lineLaw : LineLaw State.reset := by
  refine ⟨?_, ?_, by decide, List.Pairwise.nil, by decide, fun _ => by decide⟩ <;>
    exact ⟨by decide, by decide, by decide⟩

theorem reset_settledLaw : SettledLaw State.reset := by
  have hfits : ∀ ch, CommitmentFits State.reset.line ch := by
    intro ch
    cases ch <;> exact ⟨fun h => absurd rfl h, by decide⟩
  have hserved : ∀ ch, ChanServed (isLive State.reset) State.reset.line ch := by
    intro ch
    cases ch <;> exact ⟨fun _ => .inl rfl, by decide⟩
  exact ⟨hfits .l, hfits .h, hserved .l, hserved .h, by decide, by decide, by decide, fun _ => by decide⟩

theorem reset_intervalLaw : IntervalLaw State.reset :=
  ⟨fun _ h => by simp [State.reset] at h, by decide, fun _ => rfl⟩

theorem reset_blockLaw : BlockLaw State.reset := by
  refine ⟨fun _ h => by simp [State.reset] at h, by decide, by decide, by decide, by decide, by decide,
    by decide, ?_, ?_, ?_⟩ <;>
    exact ⟨by decide, by decide⟩

theorem reset_counterLaw : CounterLaw State.reset :=
  ⟨by decide, by decide, fun b => by cases b <;> decide⟩

/-- Settles O6. -/
theorem everyLawHoldsAtReset : Obligations.EveryLawHoldsAtReset := by
  have hnone : ∀ c, State.reset.config ≠ some c := fun c h => by simp [State.reset] at h
  refine ⟨reset_store_law, ⟨by decide, by decide, by decide⟩, fun c h => absurd h (hnone c),
    reset_lineLaw, reset_settledLaw, ⟨fun c h => absurd h (hnone c), fun _ => rfl⟩,
    ⟨fun c h => absurd h (hnone c), by decide⟩, ⟨by decide, by decide, fun _ => by decide⟩,
    by unfold ConfiguredLaw; decide, ⟨by decide, by decide⟩, reset_intervalLaw, reset_blockLaw,
    ⟨by decide, by decide⟩, reset_counterLaw, fun h => absurd h (by decide), ⟨by decide, by decide⟩⟩

/-- SUPPLY is the one cause that the end of a reset latches, where PFW is active (R143). -/
theorem raiseIf_supply_reset (pfw : Bool) :
    raiseIf pfw .supply Alerts.reset = { Alerts.reset with latches := if pfw then 1#9 else 0#9 } := by
  cases pfw <;> decide

/-- Settles O4: the tables by evaluation, the row by its two phases. -/
theorem powerOnResetValues : Obligations.PowerOnResetValues := by
  refine ⟨?_, fun pfw csnLow s => ⟨?_, rfl⟩⟩
  · and_intros
    all_goals first | rfl | skip
    · intro b
      cases b <;> rfl
    · intro ch
      cases ch <;> decide
  · simp only [exec, execPowerOnReset, resetPhase, endReset]
    rw [show (clearedPart s).alerts = Alerts.reset from rfl, raiseIf_supply_reset]
    rfl

end Sys2Proof.Machine
end

section
namespace Sys2Proof.Machine

/-! ## Calibrated products -/

/-- A product of two samples lies between -2^15 (2^15 - 1) and 2^30 (R175). -/
theorem sampleProduct_range {v i : Int} (hv : -32768 ≤ v ∧ v ≤ 32767) (hi : -32768 ≤ i ∧ i ≤ 32767) :
    -1073709056 ≤ v * i ∧ v * i ≤ 1073741824 := by
  obtain ⟨hv0, hv1⟩ := hv
  obtain ⟨hi0, hi1⟩ := hi
  constructor
  · rcases le_total 0 v with h | h <;> nlinarith
  · rcases le_total 0 v with h | h <;> nlinarith

/-- The exact product lies in the range whose ends R15 names, and so in 48 bits. -/
theorem exactProduct_range {v i : Int} {g : Nat} (hv : -32768 ≤ v ∧ v ≤ 32767)
    (hi : -32768 ≤ i ∧ i ≤ 32767) (hg : g ≤ 49151) :
    -1610530817 * 32768 ≤ v * i * g ∧ v * i * g ≤ 1610579968 * 32768 := by
  obtain ⟨hlo, hhi⟩ := sampleProduct_range hv hi
  have hg' : (g : Int) ≤ 49151 := by exact_mod_cast hg
  have hg0 : (0 : Int) ≤ g := Int.natCast_nonneg g
  generalize v * i = p at *
  constructor <;> nlinarith

/-- A calibrated product lies in the range of R15 whatever the gain up to 49151. -/
theorem calibrated_range {v i : Int} {g : Nat} (hv : -32768 ≤ v ∧ v ≤ 32767)
    (hi : -32768 ≤ i ∧ i ≤ 32767) (hg : g ≤ 49151) : InProductRange (calibrated v i g) := by
  obtain ⟨hlo, hhi⟩ := exactProduct_range hv hi hg
  unfold InProductRange calibrated
  omega

/-- Settles O17: the division by 32768 rounds down, and the range follows from the samples' own. -/
theorem calibratedProductsRoundDown : Obligations.CalibratedProductsRoundDown := by
  refine ⟨?_, by decide, by decide, by decide, ?_⟩
  · intro v i g _ hg
    have hv : -32768 ≤ v.toInt ∧ v.toInt ≤ 32767 := by have := v.isLt; rw [BitVec.toInt]; split <;> omega
    have hi : -32768 ≤ i.toInt ∧ i.toInt ≤ 32767 := by have := i.isLt; rw [BitVec.toInt]; split <;> omega
    obtain ⟨hlo, hhi⟩ := exactProduct_range hv hi hg
    obtain ⟨hrlo, hrhi⟩ := calibrated_range hv hi hg
    refine ⟨?_, ?_, by omega, by omega, hrlo, hrhi⟩ <;> unfold calibrated <;> omega
  · intro c x
    refine ⟨rfl, rfl, rfl, fun v i => ⟨?_, ?_, ?_⟩⟩ <;> intro h <;> simp [formProducts, h]

/-! ## Netting -/

/-- Settles O18: each accumulator takes the positive part of what is netted. -/
theorem nettingModes : Obligations.NettingModes := by
  intro p n h1 h2 h3
  unfold InProductRange at h1 h2 h3
  refine ⟨by omega, ?_, ?_, ?_, ?_, fun m => ⟨rfl, rfl⟩⟩ <;>
    simp only [netSet, setImport, setExport]
  · split <;> omega
  · split <;> omega
  · (repeat' split) <;> omega
  · (repeat' split) <;> omega

/-! ## The close of a block -/

/-- BLOCK_CLOSE takes a due block close and nothing else. -/
theorem exec_blockClose {s : State} {c : Setup} (hc : s.config = some c) :
    exec .blockClose s = .next (takeDueBlock c s) := by
  simp [exec, execBlockClose, blockCloses, hc]

theorem takeDueBlock_of_due {c : Setup} {s : State} (h : blockDue s = true) :
    takeDueBlock c s = closeBlock c true s := if_pos h

theorem takeDueBlock_of_not_due {c : Setup} {s : State} (h : blockDue s = false) :
    takeDueBlock c s = s := if_neg (by simp [h])

/-- The interval is count-complete as its elapsed count reaches its length (R31). -/
theorem countComplete_iff (s : State) :
    countComplete s = true ↔ isLive s = true ∧ ∃ n, s.it.length = some n ∧ n ≤ s.it.elapsed := by
  unfold countComplete
  cases s.it.length <;> simp

/-- A block is due at 64 sets or with the interval's last set (R19, R20). -/
theorem blockDue_iff (s : State) :
    blockDue s = true ↔
      isLive s = true ∧ (64 ≤ s.ne.blockSets ∨ countComplete s = true ∧ 0 < s.ne.blockSets) := by
  simp [blockDue]

theorem windowDue_iff (c : Setup) (s : State) :
    windowDue c s = true ↔
      isLive s = true ∧ s.it.window ≠ none ∧ c.window ≤ s.it.elapsed := by
  simp [windowDue, and_assoc, Option.isSome_iff_ne_none]

/-- The totals of a band that is set, and of another. -/
@[simp] theorem totalsOf_setTotals_same (t : Totals) (p : Pair) (b : Band) :
    totalsOf (setTotals t p b) b = p := by cases b <;> rfl

theorem totalsOf_setTotals_other {a b : Band} (t : Totals) (p : Pair) (h : a ≠ b) :
    totalsOf (setTotals t p b) a = totalsOf t a := by
  cases a <;> cases b <;> first | rfl | exact absurd rfl h

/-- Settles O22: a due block close is `closeBlock`, whose quanta and residue are quotient and rest. -/
theorem blockClose : Obligations.BlockClose := by
  refine ⟨fun s c hc => ⟨fun h => ?_, fun hl hdue => ?_⟩, fun s c hc hq hdue => ?_⟩
  · rw [exec_blockClose hc, takeDueBlock_of_not_due h]
  · have hdue' : blockDue s = true := by
      rw [blockDue_iff, countComplete_iff]
      tauto
    simp only [exec_blockClose hc, takeDueBlock_of_due hdue', closeBlock, hl, if_true, Bool.true_and]
    rfl
  · refine ⟨closeBlock c true s, quantaOf c.quantum s.ne.residueImport (acceptFigure c.creep s.ne.accImport),
      quantaOf c.quantum s.ne.residueExport (acceptFigure c.creep s.ne.accExport), ?_, Nat.div_add_mod' _ _,
      Nat.div_add_mod' _ _, Nat.mod_lt _ hq, Nat.mod_lt _ hq, ?_, ?_, fun b hb => ?_⟩
    · rw [exec_blockClose hc, takeDueBlock_of_due hdue]
    · simp [closeBlock, bankQuanta, addTotal]
    · simp [closeBlock, bankQuanta, addTotal]
    · exact totalsOf_setTotals_other _ _ hb

end Sys2Proof.Machine
end

section
namespace Sys2Proof.Machine

/-! ## What is due -/

theorem nominalLength_pos (code : Nat) : 192000 ≤ nominalLength code := by
  have : 1 ≤ minutesOf code := by unfold minutesOf; split <;> decide
  unfold nominalLength
  omega

/-- Where nothing is due no block is, and no boundary, under a configuration. -/
theorem nothingDue_iff (s : State) :
    nothingDue s = true ↔ s.config = none ∨ (blockDue s = false ∧ countComplete s = false) := by
  unfold nothingDue
  cases s.config <;> simp

theorem isLive_iff (s : State) : isLive s = true ↔ s.supply.op = .run ∨ s.supply.op = .resync := by
  unfold isLive opLive
  cases s.supply.op <;> simp

/-- An interval whose elapsed count is below its length is not count-complete (R31). -/
theorem countComplete_of_lt {s : State} {n : Nat} (hn : s.it.length = some n) (he : s.it.elapsed < n) :
    countComplete s = false := by
  simp [countComplete, hn, he]

/-- A count-complete boundary begins an interval at its first set (R34). -/
theorem countBoundary_begins (c : Setup) (s : State) :
    (countBoundary c s).it.length = some (nominalLength c.lengthCode)
      ∧ (countBoundary c s).it.elapsed = 0 := by
  unfold countBoundary pacePresence
  dsimp only
  split <;> exact ⟨rfl, rfl⟩

theorem countComplete_countBoundary (c : Setup) (s : State) :
    countComplete (countBoundary c s) = false := by
  obtain ⟨hlen, he⟩ := countBoundary_begins c s
  have := nominalLength_pos c.lengthCode
  exact countComplete_of_lt hlen (by omega)

theorem countComplete_unalignedClose (c : Setup) (s : State) :
    countComplete (unalignedClose c s) = false := by
  have := nominalLength_pos c.lengthCode
  exact countComplete_of_lt (n := nominalLength c.lengthCode) rfl
    (show 0 < nominalLength c.lengthCode by omega)

theorem countBoundary_blockSets (c : Setup) (s : State) :
    (countBoundary c s).ne.blockSets = s.ne.blockSets := by
  simp [countBoundary, clearInterval, beginInterval]

theorem unalignedClose_blockSets (c : Setup) (s : State) :
    (unalignedClose c s).ne.blockSets = s.ne.blockSets := by
  simp [unalignedClose, clearInterval, beginInterval]

theorem countComplete_takeDueBoundary (c : Setup) (s : State) :
    countComplete (takeDueBoundary c s) = false := by
  unfold takeDueBoundary
  split
  · split
    · exact countComplete_countBoundary c s
    · exact countComplete_unalignedClose c s
  · exact Bool.eq_false_iff.mpr ‹_›

theorem takeDueBoundary_blockSets (c : Setup) (s : State) :
    (takeDueBoundary c s).ne.blockSets = s.ne.blockSets := by
  unfold takeDueBoundary
  (repeat' split)
  · exact countBoundary_blockSets c s
  · exact unalignedClose_blockSets c s
  · rfl

/-- Taking what is due leaves nothing due. -/
theorem nothingDue_takeDue (s : State) : nothingDue (takeDue s) = true := by
  rw [nothingDue_iff, takeDue_config]
  cases hc : s.config with
  | none => exact .inl rfl
  | some c =>
    right
    have hb := blockDue_takeDueBlock c s
    have htd : takeDue s = takeDueBoundary c (takeDueBlock c s) := by simp [takeDue, hc]
    have hcc := countComplete_takeDueBoundary c (takeDueBlock c s)
    rw [htd]
    refine ⟨?_, hcc⟩
    simp only [blockDue, hcc, takeDueBoundary_blockSets, takeDueBoundary_isLive] at hb ⊢
    simp only [Bool.and_eq_false_iff, Bool.or_eq_false_iff] at hb ⊢
    tauto

theorem takeDue_idem (s : State) : takeDue (takeDue s) = takeDue s :=
  takeDue_of_nothingDue (nothingDue_takeDue s)

theorem takeAllDue_takeDue (c : Setup) (s : State) : takeAllDue c (takeDue s) = takeAllDue c s := by
  simp only [takeAllDue, takeDue_idem]

/-! ## A set that the watchdog fills -/

/-- The port after a missing set (R10, R12): LOST at 64, its sequence open as it becomes so. -/
theorem missSet_eq (p : SamplePort) :
    missSet p =
      { p with
        state := if 64 ≤ p.missing + 1 then .lost else p.state
        expected := if becomesLost p then none else p.expected
        missing := min 64 (p.missing + 1) } := by
  unfold missSet
  by_cases hl : becomesLost p = true
  · have h64 : 64 ≤ p.missing + 1 := by
      simp only [becomesLost, Bool.and_eq_true, decide_eq_true_eq] at hl
      exact hl.1
    simp [hl, h64]
  · by_cases h64 : 64 ≤ p.missing + 1
    · have hst : p.state = .lost := by simpa [becomesLost, h64] using hl
      simp [hl, h64, hst]
    · simp [hl, h64]

/-- A set adds one to the block and to the elapsed count, and ages both captures (R13, R31, R41). -/
theorem ageCapture_eq (k : Option Capture) :
    ageCapture k = k.map fun k => { k with since := min 65535 (k.since + 1) } := by
  cases k <;> rfl

/-- WATCHDOG_EXPIRY fills one set, after what is due is taken. -/
theorem exec_watchdogExpiry {s : State} {c : Setup} (hc : s.config = some c)
    (hidle : s.sp.state ≠ .idle) (hw : s.sp.watchdog.isSome = true) :
    exec .watchdogExpiry s =
      .next { missingSet c s with sp := afterExpiry (missingSet c s).sp } := by
  have hm : missingSet c (takeDue s) = missingSet c s := by
    simp only [missingSet, takeAllDue_takeDue]
  simp [exec, execWatchdogExpiry, watchdogExpires, hc, hidle, hw, hm]

/-- Settles O21. -/
theorem watchdogExpiryFillsOneSet : Obligations.WatchdogExpiryFillsOneSet := by
  intro s c hn hc hwin hidle hw
  rw [exec_watchdogExpiry hc hidle hw]
  have hall : takeAllDue c s = s := takeAllDue_of_nothingDue hn hwin
  have hlost : becomesLost s.sp = decide (64 ≤ s.sp.missing + 1 ∧ s.sp.state ≠ .lost) := by
    simp [becomesLost, bne, Bool.beq_eq_decide_eq]
  have hexp : (if becomesLost s.sp then none else s.sp.expected).map (· + 1)
      = if becomesLost s.sp then none else s.sp.expected.map (· + 1) := by
    split <;> rfl
  simp only [missingSet, hall, countSet, missSet_eq, afterExpiry, hexp, ageCapture_eq, ← hlost]
  by_cases hsub : s.sp.missing + 1 ≤ 2 <;>
    simp [missingProducts, flagMissing, hsub, raiseIf, raise, causeBit, causeCode]

/-! ## Early closes -/

/-- WINDOW_CLOSE takes a due window close and nothing else. -/
theorem exec_windowClose {s : State} {c : Setup} (hc : s.config = some c) :
    exec .windowClose s = .next (takeDueWindow c s) := by
  simp [exec, execWindowClose, hc]

/-- What a record does to the state does not depend on the Interval Timer. -/
theorem putRecord_with_it (r : Record) (s : State) (it : IntervalTimer) :
    putRecord r { s with it := it } = { putRecord r s with it := it } := by
  unfold putRecord
  dsimp only
  split <;> rfl

/-- A settlement takes the Interval Timer as it is and closes its window. -/
theorem settleWindow_with_it (c : Setup) (f : Figures) (s : State) (it : IntervalTimer) :
    settleWindow c f { s with it := it } = { settleWindow c f s with it := { it with window := none } } := by
  simp only [settleWindow]
  rw [← putRecord_with_it]
  rfl

theorem takeDueWindow_of_due {c : Setup} {s : State} (h : windowDue c s = true) :
    takeDueWindow c s = windowCloses c s := if_pos h

/-- Settles O30. -/
theorem earlyClosesSettleAsTheTimelyOnes : Obligations.EarlyClosesSettleAsTheTimelyOnes := by
  intro s c hc hl
  refine ⟨fun f hopen hf => ?_, fun h => by simp [settleOpenWindow, h], fun hpos => ?_,
    fun h j => by simp [closeOpenBlock, h], fun hpos => ?_⟩
  · have hdue : windowDue c { s with it := { s.it with elapsed := c.window } } = true := by
      rw [windowDue_iff]
      exact ⟨hl, Option.isSome_iff_ne_none.mp hopen, le_refl _⟩
    refine ⟨windowCloses c { s with it := { s.it with elapsed := c.window } }, ?_, ?_⟩
    · rw [exec_windowClose (c := c), takeDueWindow_of_due hdue]
      exact hc
    · simp only [settleOpenWindow, hopen, if_true, windowCloses, closeWindow, hf, applyTrim,
        settleWindow_with_it]
      exact settleWindow_with_it c f s s.it
  · have hdue : blockDue { s with ne := { s.ne with blockSets := 64 } } = true := by
      rw [blockDue_iff]
      exact ⟨hl, .inl (le_refl 64)⟩
    rw [exec_blockClose (c := c), takeDueBlock_of_due hdue, closeOpenBlock, if_neg (by omega)]
    · rfl
    · exact hc
  · have hne : ¬ s.ne.blockSets = 0 := by omega
    simp only [closeOpenBlock, if_neg hne]
    simp [closeBlock, raiseIf]

end Sys2Proof.Machine
end

section
namespace Sys2Proof.Machine

/-! ## What is due is taken first -/

/-- A command of `takesDueFirst` acts as from the state in which what is due has been taken. -/
theorem after_takeDue {i : Instr} (h : takesDueFirst i = true) (s : State) :
    after i s = after i (takeDue s) := by
  cases i with
  | loadConfig block =>
    have hlen : ¬ block.length < 126 := by
      have : 126 ≤ block.length := by simpa [takesDueFirst] using h
      omega
    simp only [after, if_neg hlen, takeDue_idem]
  | blockClose | countCompleteBoundary | unalignedBoundary | windowClose | pfwInactive | releaseTimer
  | powerOnReset _ | unknownCommand _ | discardedTransaction _ | pfwActiveInHold =>
    simp [takesDueFirst] at h
  | _ => simp only [after, takeDue_idem]

theorem exec_takeDue {i : Instr} (h : takesDueFirst i = true) (s : State) :
    exec i s = exec i (takeDue s) := by
  rw [exec_after, exec_after, after_takeDue h]

/-- The boundary of the operating state, taken by its two rows one after the other (R34, R35). -/
theorem exec_boundaries {s : State} {c : Setup} (hc : s.config = some c) (hb : takeDueBlock c s = s) :
    ∃ v w, exec .countCompleteBoundary s = .next v ∧ exec .unalignedBoundary v = .next w
      ∧ takeDueBoundary c s = w := by
  by_cases hcc : countComplete s = true
  · rcases (isLive_iff s).mp ((countComplete_iff s).mp hcc).1 with hop | hop
    · refine ⟨countBoundary c s, countBoundary c s, ?_, ?_, ?_⟩
      · simp [exec, execCountCompleteBoundary, hc, hcc, hop, hb]
      · simp [exec, execUnalignedBoundary, hc, hop]
      · simp [takeDueBoundary, hcc, hop]
    · refine ⟨s, unalignedClose c s, ?_, ?_, ?_⟩
      · simp [exec, execCountCompleteBoundary, hc, hop]
      · simp [exec, execUnalignedBoundary, hc, hcc, hop, hb]
      · simp [takeDueBoundary, hcc, hop]
  · refine ⟨s, s, ?_, ?_, ?_⟩
    · simp [exec, execCountCompleteBoundary, hc, hcc]
    · simp [exec, execUnalignedBoundary, hc, hcc]
    · simp [takeDueBoundary, hcc]

/-- Taking what is due is the three rows of these steps in order. -/
theorem takeDue_by_rows {s : State} {c : Setup} (hc : s.config = some c) :
    ∃ u v w, exec .blockClose s = .next u ∧ exec .countCompleteBoundary u = .next v
      ∧ exec .unalignedBoundary v = .next w ∧ takeDue s = w := by
  obtain ⟨v, w, hv, hw, hb⟩ := exec_boundaries (s := takeDueBlock c s) (by simpa using hc)
    (takeDueBlock_idem c s)
  exact ⟨_, v, w, exec_blockClose hc, hv, hw, by simpa [takeDue, hc] using hb⟩

/-! ## A due window close -/

/-- The trim of a settlement is limited to 32 either way (R95). -/
theorem trimOf_range (offsets : List Int) : -32 ≤ trimOf offsets ∧ trimOf offsets ≤ 32 := by
  unfold trimOf
  split <;> omega

@[simp] theorem closeWindow_window (c : Setup) (s : State) : (closeWindow c s).it.window = none := by
  unfold closeWindow
  split
  · simp [settleWindow]
  · rfl

@[simp] theorem closeWindow_elapsed (c : Setup) (s : State) :
    (closeWindow c s).it.elapsed = s.it.elapsed := by
  unfold closeWindow
  split
  · simp [settleWindow]
  · rfl

/-- A window that has closed is not due. -/
theorem windowDue_takeDueWindow (c : Setup) (s : State) : windowDue c (takeDueWindow c s) = false := by
  unfold takeDueWindow
  split
  · simp [windowDue, windowCloses, applyTrim]
  · exact Bool.eq_false_iff.mpr ‹_›

/-- A window closes in the first half of its interval, so its trim makes no boundary due (R38, R39,
R146). -/
theorem countComplete_windowCloses {c : Setup} {s : State}
    (hhalf : 2 * c.window ≤ nominalLength c.lengthCode) (he : s.it.elapsed ≤ c.window) :
    countComplete (windowCloses c s) = false := by
  obtain ⟨hlo, _⟩ := trimOf_range (heardOffsets s.su.peers)
  have hpos := nominalLength_pos c.lengthCode
  refine countComplete_of_lt (n := ((nominalLength c.lengthCode : Int)
    + trimOf (heardOffsets s.su.peers)).toNat) rfl ?_
  simp only [windowCloses, applyTrim, closeWindow_elapsed]
  omega

/-- Taking what is due keeps what the law of the interval says of an open window. -/
theorem takeDue_window_elapsed {s : State} {c : Setup} (hc : s.config = some c)
    (hi : s.it.window ≠ none → s.it.elapsed ≤ c.window) (hw : (takeDue s).it.window ≠ none) :
    (takeDue s).it.elapsed ≤ c.window := by
  have htd : takeDue s = takeDueBoundary c (takeDueBlock c s) := by simp [takeDue, hc]
  rw [htd] at hw ⊢
  unfold takeDueBoundary at hw ⊢
  split
  · split
    · rw [(countBoundary_begins c _).2]
      exact Nat.zero_le _
    · exact Nat.zero_le _
  · rename_i hcc
    rw [if_neg hcc] at hw
    simpa using hi (by simpa using hw)

/-- Once a due window close is taken nothing is due: the state a set begins from. -/
theorem nothingDue_takeAllDue {s : State} {c : Setup} (hc : s.config = some c) (hlaw : IntervalLaw s) :
    nothingDue (takeAllDue c s) = true := by
  obtain ⟨hlaw, hconf, _⟩ := hlaw
  obtain ⟨_, hhalf, hrun⟩ := hlaw c hc
  have hd := nothingDue_takeDue s
  unfold takeAllDue takeDueWindow
  split
  · rename_i hw
    obtain ⟨hl, hopen, _⟩ := (windowDue_iff c (takeDue s)).mp hw
    obtain ⟨_, _, _, _, _, _, hel⟩ := hrun (by simpa using hl)
    have hcc := countComplete_windowCloses (s := takeDue s) hhalf (takeDue_window_elapsed hc hel hopen)
    rw [nothingDue_iff, takeDue_config, hc] at hd
    rw [nothingDue_iff]
    right
    have hb : blockDue (takeDue s) = false ∧ countComplete (takeDue s) = false := by simpa using hd
    obtain ⟨hb, _⟩ := hb
    refine ⟨?_, hcc⟩
    simp only [blockDue, windowCloses_isLive, windowCloses_ne, hcc] at hb ⊢
    simp only [Bool.and_eq_false_iff, Bool.or_eq_false_iff] at hb ⊢
    tauto
  · exact hd

/-- All that is due is taken once: a second time nothing is. -/
theorem takeAllDue_idem {s : State} {c : Setup} (hc : s.config = some c) (hlaw : IntervalLaw s) :
    takeAllDue c (takeAllDue c s) = takeAllDue c s :=
  takeAllDue_of_nothingDue (nothingDue_takeAllDue hc hlaw) (windowDue_takeDueWindow c _)

/-! ## A sample-set frame -/

/-- A valid frame at a port that is not IDLE is taken, after what is due. -/
theorem exec_sampleSetFrame {s : State} {c : Setup} {bytes : List Byte} (hc : s.config = some c)
    (hidle : s.sp.state ≠ .idle) (hlen : bytes.length = 14)
    (hcrc : crc8 (bytes.take 13) = bytes.getD 13 0) :
    exec (.sampleSetFrame bytes 0 false) s = .next (takeFrame c bytes (takeDue s)) := by
  have hna : noArrival bytes 0 false s.sp = false := by
    simp only [noArrival, sampleFrameValid, hlen, hcrc]
    simpa using hidle
  simp [exec, execSampleSetFrame, sampleArrives, hc, hna]

/-- A frame in order, or while the sequence is open, is one received set (R4, R7). -/
theorem takeFrame_in_order {s : State} {c : Setup} {bytes : List Byte}
    (he : s.sp.expected = none ∨ s.sp.expected = some (sampleSequence bytes)) :
    takeFrame c bytes s = receivedSet c (sampleSequence bytes) (sampleValues bytes) s := by
  rcases he with he | he <;> simp [takeFrame, he, missingSets]

theorem receivedSet_takeDue (c : Setup) (q : BitVec 8) (x : Samples) (s : State) :
    receivedSet c q x (takeDue s) = receivedSet c q x s := by
  simp only [receivedSet, takeAllDue_takeDue]

/-- Settles O3: a set begins by taking all that is due, so WINDOW_CLOSE before it is taken but once. -/
theorem whatIsDueIsTakenFirst : Obligations.WhatIsDueIsTakenFirst := by
  intro s
  refine ⟨nothingDue_takeDue s, takeDue_of_nothingDue, fun hc => by simp [takeDue, hc],
    fun c hc => takeDue_by_rows hc, fun i hi => exec_takeDue hi s, fun c t hc hlaw hidle ht => ?_,
    countComplete_iff s, blockDue_iff s, fun c => windowDue_iff c s, isLive_iff s, nothingDue_iff s⟩
  rw [exec_windowClose (c := c) (by simpa using hc)] at ht
  obtain rfl : takeAllDue c s = t := by simpa [takeAllDue] using ht
  have hidem := takeAllDue_idem hc hlaw
  refine ⟨fun hw => ?_, fun bytes hlen hcrc he => ?_⟩
  · rw [exec_watchdogExpiry hc hidle hw,
      exec_watchdogExpiry (c := c) (by simpa using hc) (by simpa using hidle) (by simpa using hw)]
    simp only [missingSet, hidem]
  · rw [exec_sampleSetFrame hc hidle hlen hcrc,
      exec_sampleSetFrame (c := c) (by simpa using hc) (by simpa using hidle) hlen hcrc,
      takeFrame_in_order (by rwa [takeDue_sp]),
      takeFrame_in_order (by rwa [takeDue_sp, takeAllDue_sp]),
      receivedSet_takeDue, receivedSet_takeDue]
    simp only [receivedSet, hidem]

end Sys2Proof.Machine
end

section
namespace Sys2Proof.Machine

/-! ## The check value bit by bit -/

/-- One step of the division by a CRC polynomial: a bit of the message meets the register's top bit. -/
def crcStep {w : Nat} (poly : BitVec w) (r : BitVec w) (bit : Bool) : BitVec w :=
  if r.msb != bit then (r <<< 1) ^^^ poly else r <<< 1

/-- The shift of a register into which message bits were added is the division's step, the further
message bits staying ahead. -/
theorem crcShift_xor {w : Nat} (poly r x : BitVec w) :
    crcShift poly (r ^^^ x) = crcStep poly r x.msb ^^^ (x <<< 1) := by
  have hs : (r ^^^ x) <<< 1 = (r <<< 1) ^^^ (x <<< 1) := BitVec.shiftLeft_xor_distrib r x 1
  unfold crcShift crcStep
  rw [BitVec.msb_xor, hs]
  split
  · rw [BitVec.xor_assoc, BitVec.xor_comm (x <<< 1), ← BitVec.xor_assoc]
  · rfl

/-- `n` shifts of such a register are the division's steps over its `n` top message bits. -/
theorem crcBits_xor {w : Nat} (poly : BitVec w) (n : Nat) (r x : BitVec w) :
    crcBits poly n (r ^^^ x)
      = ((List.range n).map x.getMsbD).foldl (crcStep poly) r ^^^ (x <<< n) := by
  induction n generalizing r x with
  | zero => simp [crcBits]
  | succ n ih =>
    have hbits : (List.range n).map (x <<< 1).getMsbD
        = (List.range n).map fun i => x.getMsbD (i + 1) := by
      refine List.map_congr_left fun i _ => ?_
      simp [BitVec.getMsbD_shiftLeft]
    have hsh : x <<< 1 <<< n = x <<< (n + 1) := by
      rw [← BitVec.shiftLeft_add, Nat.add_comm]
    rw [crcBits, crcShift_xor, ih, hbits, hsh, List.range_succ_eq_map]
    simp [BitVec.msb, Function.comp_def]

/-- A byte's bits, the most significant first. -/
theorem bitsMsbFirst_eq (b : Byte) : bitsMsbFirst b = (List.range 8).map b.getMsbD := by
  refine List.map_congr_left fun i hi => ?_
  have : i < 8 := List.mem_range.mp hi
  simp [BitVec.getMsbD, this]

/-- One byte of the CRC-8 is eight steps of the division (R2). -/
theorem crcByte_eq_steps (poly r : BitVec 8) (b : Byte) :
    crcByte poly r b = (bitsMsbFirst b).foldl (crcStep poly) r := by
  have h0 : b.setWidth 8 <<< (8 - 8) = b := by simp
  have h8 : b <<< 8 = 0#8 := by ext i hi; simp
  rw [crcByte, h0, crcBits_xor, h8, bitsMsbFirst_eq, BitVec.xor_zero]

/-- The CRC-8 is the remainder of the division over all the bits of its bytes (R2). -/
theorem crc8_eq_steps (bytes : List Byte) :
    crc8 bytes = (bytes.flatMap bitsMsbFirst).foldl (crcStep 0x2F#8) 0x00#8 := by
  have hstep : crcByte 0x2F#8 = fun r b => (bitsMsbFirst b).foldl (crcStep 0x2F#8) r :=
    funext fun r => funext fun b => crcByte_eq_steps _ r b
  rw [crc8, List.foldl_flatMap, hstep]

/-- The levels of a sample-set frame give its row (R1). -/
theorem sampleFrameOf_pulses (bytes : List Byte) (extra : List Bool) (data : List (Bool × Bool))
    (sclk first inIdle : Bool) (hextra : extra.length < 8)
    (hdata : data.map (·.1) = bytes.flatMap bitsMsbFirst ++ extra) :
    sampleFrameOf sclk ((false, first) :: data.flatMap fun d => [(true, d.1), (false, d.2)]) inIdle
      = .sampleSetFrame bytes extra.length inIdle := by
  simp only [sampleFrameOf, risingSamples_low, risingSamples_pulses, hdata,
    clockedIn_bytes bytes extra hextra]

/-! ## SAMPLE_SET_FRAME -/

/-- A frame that is no arrival, or stands behind the expected number, changes nothing (R1, R6). -/
theorem sampleArrives_ignored {s : State} {bytes : List Byte} {partialBits : Nat} {inIdle : Bool}
    (h : noArrival bytes partialBits inIdle s.sp = true
      ∨ ∃ e, s.sp.expected = some e ∧ 128 ≤ (sampleSequence bytes - e).toNat) :
    sampleArrives bytes partialBits inIdle s = s := by
  unfold sampleArrives
  split
  · rfl
  · split
    · rfl
    · rename_i hna
      obtain ⟨e, he, hd⟩ := h.resolve_left hna
      have : ¬ (sampleSequence bytes - e).toNat ≤ 127 := by omega
      simp only [takeFrame, he, if_neg this]

/-- Settles O19. -/
theorem sampleSetFrames : Obligations.SampleSetFrames := by
  refine ⟨?_, ?_, ?_⟩
  · intro s c bytes hn hc hwin hidle hlen hcrc he
    rw [exec_sampleSetFrame hc hidle hlen hcrc, takeDue_of_nothingDue hn, takeFrame_in_order he]
    simp only [receivedSet, takeAllDue_of_nothingDue hn hwin, countSet, ageCapture_eq]
    rfl
  · intro s bytes partialBits inIdle hn h
    rw [exec_after]
    simp only [after, takeDue_of_nothingDue hn]
    rw [sampleArrives_ignored]
    simp only [noArrival, sampleFrameValid, Bool.or_eq_true, beq_iff_eq, Bool.not_eq_true',
      Bool.and_eq_false_iff, beq_eq_false_iff_ne]
    rcases h with h | h | h | h | h | h
    · exact .inl (.inl (.inl h))
    · exact .inl (.inl (.inr h))
    · exact .inl (.inr (.inl (.inl h)))
    · exact .inl (.inr (.inl (.inr h)))
    · exact .inl (.inr (.inr h))
    · exact .inr h
  · intro bytes bits
    exact ⟨crc8_eq_steps bytes, fun extra data sclk first inIdle hextra hdata =>
      sampleFrameOf_pulses bytes extra data sclk first inIdle hextra hdata⟩

end Sys2Proof.Machine
end

section
namespace Sys2Proof.Machine

/-! ## What is due does not read the Sample Port -/

theorem putRecord_with_sp (r : Record) (s : State) (p : SamplePort) :
    putRecord r { s with sp := p } = { putRecord r s with sp := p } := by
  unfold putRecord
  dsimp only
  split <;> rfl

theorem takeDueBlock_with_sp (c : Setup) (s : State) (p : SamplePort) :
    takeDueBlock c { s with sp := p } = { takeDueBlock c s with sp := p } := by
  change (if blockDue s = true then closeBlock c true { s with sp := p } else { s with sp := p }) = _
  unfold takeDueBlock
  split <;> rfl

theorem pacePresence_with_sp (c : Setup) (s : State) (p : SamplePort) :
    pacePresence c { s with sp := p } = { pacePresence c s with sp := p } := by
  unfold pacePresence
  dsimp only
  split <;> rfl

theorem countBoundary_with_sp (c : Setup) (s : State) (p : SamplePort) :
    countBoundary c { s with sp := p } = { countBoundary c s with sp := p } := by
  simp only [countBoundary]
  rw [← pacePresence_with_sp]
  rfl

theorem unalignedClose_with_sp (c : Setup) (s : State) (p : SamplePort) :
    unalignedClose c { s with sp := p } = { unalignedClose c s with sp := p } := by
  have hr := putRecord_with_sp (loneRecord c (takeFigures false s) (unalignedMarks s.line.barred)) s p
  change beginInterval c _ 0 .unbanded (clearInterval (putRecord (loneRecord c (takeFigures false s)
    (unalignedMarks s.line.barred)) { s with sp := p })) = _
  rw [hr]
  rfl

theorem takeDue_with_sp (s : State) (p : SamplePort) :
    takeDue { s with sp := p } = { takeDue s with sp := p } := by
  unfold takeDue
  dsimp only
  split
  · rfl
  · rename_i c _
    rw [takeDueBlock_with_sp]
    generalize takeDueBlock c s = u
    change (if countComplete u = true then
      (if u.supply.op = .run then countBoundary c { u with sp := p } else unalignedClose c { u with sp := p })
        else { u with sp := p }) = _
    unfold takeDueBoundary
    rw [countBoundary_with_sp, unalignedClose_with_sp]
    (repeat' split) <;> rfl

theorem closeWindow_with_sp (c : Setup) (s : State) (p : SamplePort) :
    closeWindow c { s with sp := p } = { closeWindow c s with sp := p } := by
  unfold closeWindow
  dsimp only
  split
  · simp only [settleWindow]
    rw [← putRecord_with_sp]
    rfl
  · rfl

theorem takeAllDue_with_sp (c : Setup) (s : State) (p : SamplePort) :
    takeAllDue c { s with sp := p } = { takeAllDue c s with sp := p } := by
  unfold takeAllDue
  rw [takeDue_with_sp]
  generalize takeDue s = u
  change (if windowDue c u = true then windowCloses c { u with sp := p } else { u with sp := p }) = _
  unfold takeDueWindow windowCloses
  rw [closeWindow_with_sp]
  split <;> rfl

/-! ## States that differ in the expected number and the watchdog alone -/

/-- `t` is `s` but for the Sample Port's expected number and its watchdog. -/
def AgreesButTiming (s t : State) : Prop :=
  ∃ e w, t = { s with sp := { s.sp with expected := e, watchdog := w } }

theorem AgreesButTiming.refl (s : State) : AgreesButTiming s s := ⟨s.sp.expected, s.sp.watchdog, rfl⟩

theorem AgreesButTiming.retime {s t : State} (h : AgreesButTiming s t) (e : Option (BitVec 8))
    (w : Timer) :
    AgreesButTiming s { t with sp := { t.sp with expected := e, watchdog := w } } := by
  obtain ⟨_, _, rfl⟩ := h
  exact ⟨e, w, rfl⟩

theorem AgreesButTiming.port {s t : State} (h : AgreesButTiming s t) :
    t.config = s.config ∧ t.sp.state = s.sp.state ∧ t.sp.missing = s.sp.missing := by
  obtain ⟨_, _, rfl⟩ := h
  exact ⟨rfl, rfl, rfl⟩

/-- A missing set reads neither of them. -/
theorem missingSet_agrees {s t : State} (c : Setup) (h : AgreesButTiming s t) :
    AgreesButTiming (missingSet c s) (missingSet c t) := by
  obtain ⟨e, w, rfl⟩ := h
  refine ⟨if becomesLost s.sp then none else e, w, ?_⟩
  simp only [missingSet, takeAllDue_with_sp, missSet_eq, takeAllDue_sp]
  rfl

/-- A received set reads neither of them and writes both. -/
theorem receivedSet_agrees {s t : State} (c : Setup) (q : BitVec 8) (x : Samples)
    (h : AgreesButTiming s t) : receivedSet c q x t = receivedSet c q x s := by
  obtain ⟨e, w, rfl⟩ := h
  simp only [receivedSet, takeAllDue_with_sp]

theorem missingSets_agrees {s t : State} (c : Setup) (k : Nat) (h : AgreesButTiming s t) :
    AgreesButTiming (missingSets c k s) (missingSets c k t) := by
  induction k generalizing s t with
  | zero => exact h
  | succ k ih => exact ih (missingSet_agrees c h)

/-- `k + 1` missing sets are `k` and one more. -/
theorem missingSets_succ (c : Setup) (k : Nat) (s : State) :
    missingSets c (k + 1) s = missingSet c (missingSets c k s) := by
  induction k generalizing s with
  | zero => rfl
  | succ k ih => exact ih (missingSet c s)

/-- The first set of a back-fill takes what is due, so that it need not be taken before. -/
theorem receivedSet_missingSets_takeDue (c : Setup) (q : BitVec 8) (x : Samples) (k : Nat) (s : State) :
    receivedSet c q x (missingSets c k (takeDue s)) = receivedSet c q x (missingSets c k s) := by
  cases k with
  | zero => exact receivedSet_takeDue c q x s
  | succ k => simp only [missingSets, missingSet, takeAllDue_takeDue]

/-- A frame ahead by `d` is `d` missing sets and a received one (R5). -/
theorem exec_frame_ahead {s : State} {c : Setup} {bytes : List Byte} {e : BitVec 8}
    (hc : s.config = some c) (hidle : s.sp.state ≠ .idle) (hlen : bytes.length = 14)
    (hcrc : crc8 (bytes.take 13) = bytes.getD 13 0) (he : s.sp.expected = some e)
    (hd : (sampleSequence bytes - e).toNat ≤ 127) :
    exec (.sampleSetFrame bytes 0 false) s =
      .next (receivedSet c (sampleSequence bytes) (sampleValues bytes)
        (missingSets c (sampleSequence bytes - e).toNat s)) := by
  rw [exec_sampleSetFrame hc hidle hlen hcrc, ← receivedSet_missingSets_takeDue]
  simp only [takeFrame, takeDue_sp, he, if_pos hd]

/-- A frame behind the expected number is discarded; what is due is taken (R6). -/
theorem exec_frame_behind {s : State} {bytes : List Byte} {e : BitVec 8} (he : s.sp.expected = some e)
    (hd : 128 ≤ (sampleSequence bytes - e).toNat) :
    exec (.sampleSetFrame bytes 0 false) s = .next (takeDue s) := by
  rw [exec_after]
  simp only [after]
  rw [sampleArrives_ignored (.inr ⟨e, by simpa using he, hd⟩)]

@[simp] theorem missingSet_sp (c : Setup) (s : State) : (missingSet c s).sp = missSet s.sp := by
  simp [missingSet]

theorem missSet_not_idle {p : SamplePort} (h : p.state ≠ .idle) : (missSet p).state ≠ .idle := by
  rw [missSet_eq]
  dsimp only
  split
  · simp
  · exact h

/-! ## A back-fill that reaches 64 -/

section Alerts

variable {p : Alerts → Prop} (hp : ∀ k a, p a → p (raise k a))

include hp

theorem alerts_raiseIf {k : Cause} {b : Bool} {a : Alerts} (h : p a) : p (raiseIf b k a) := by
  unfold raiseIf
  split
  · exact hp _ _ h
  · exact h

/-- A record handed over raises causes and clears none (R128, R129). -/
theorem alerts_putRecord {r : Record} {s : State} (h : p s.alerts) : p (putRecord r s).alerts := by
  unfold putRecord
  split
  · exact h
  · exact alerts_raiseIf hp (hp _ _ h)

theorem alerts_takeDue {s : State} (h : p s.alerts) : p (takeDue s).alerts := by
  unfold takeDue
  split
  · exact h
  · rename_i c _
    have hb : p (takeDueBlock c s).alerts := by
      unfold takeDueBlock
      split
      · exact alerts_raiseIf hp h
      · exact h
    unfold takeDueBoundary
    (repeat' split)
    · simpa using hb
    · exact alerts_putRecord hp hb
    · exact hb

/-- What a set begins with raises causes and clears none. -/
theorem alerts_takeAllDue {c : Setup} {s : State} (h : p s.alerts) : p (takeAllDue c s).alerts := by
  have hd := alerts_takeDue hp h
  unfold takeAllDue takeDueWindow
  split
  · unfold windowCloses closeWindow
    rw [applyTrim_alerts]
    split
    · exact alerts_putRecord hp (alerts_raiseIf hp hd)
    · exact hd
  · exact hd

end Alerts

/-- The latch of SAMPLE, which no cause raised clears. -/
theorem sampleLatch_raise (k : Cause) (a : Alerts) (h : a.latches.getLsbD 7 = true) :
    (raise k a).latches.getLsbD 7 = true := by
  simp [raise, h]

theorem missingSet_alerts (c : Setup) (s : State) :
    (missingSet c s).alerts = raiseIf (becomesLost s.sp) .sample (takeAllDue c s).alerts := by
  simp [missingSet]

/-- Missing sets at a RUNNING port: the count is limited to 64, where the port becomes LOST and SAMPLE
is latched (R12). -/
theorem missingSets_reach {s : State} (c : Setup) (hrun : s.sp.state = .running)
    (hm : s.sp.missing < 64) (k : Nat) :
    (missingSets c k s).sp.missing = min 64 (s.sp.missing + k)
      ∧ (missingSets c k s).sp.state = (if 64 ≤ s.sp.missing + k then .lost else .running)
      ∧ (64 ≤ s.sp.missing + k → (missingSets c k s).alerts.latches.getLsbD 7 = true) := by
  induction k with
  | zero =>
    have h64 : ¬ 64 ≤ s.sp.missing + 0 := by omega
    refine ⟨?_, ?_, fun h => absurd h h64⟩
    · show s.sp.missing = _
      omega
    · rw [if_neg h64]
      exact hrun
  | succ k ih =>
    obtain ⟨hmiss, hstate, hlatch⟩ := ih
    rw [missingSets_succ, missingSet_sp, missSet_eq, missingSet_alerts]
    simp only [becomesLost, hmiss, hstate]
    refine ⟨by omega, ?_, fun h => ?_⟩
    · by_cases h : 64 ≤ s.sp.missing + k
      · rw [if_pos h, if_pos (show 64 ≤ s.sp.missing + (k + 1) by omega)]
        split <;> rfl
      · rw [if_neg h]
        by_cases h' : 64 ≤ s.sp.missing + (k + 1)
        · rw [if_pos h', if_pos (by omega)]
        · rw [if_neg h', if_neg (by omega)]
    · by_cases h' : 64 ≤ s.sp.missing + k
      · exact alerts_raiseIf (p := fun a => a.latches.getLsbD 7 = true) sampleLatch_raise
          (alerts_takeAllDue (p := fun a => a.latches.getLsbD 7 = true) sampleLatch_raise (hlatch h'))
      · have h64 : 64 ≤ min 64 (s.sp.missing + k) + 1 := by omega
        simp [h', h64, raiseIf, raise, causeBit, causeCode]

/-! ## Expiries before a frame -/

/-- `d` expiries fill the sets that a frame ahead by `d` would fill (R5, R8). -/
theorem expiries_fill {u : Nat → State} {c : Setup} {d : Nat} (hc : (u 0).config = some c)
    (hidle : (u 0).sp.state ≠ .idle) (hw : (u 0).sp.watchdog.isSome = true)
    (hu : ∀ k, k < d → exec .watchdogExpiry (u k) = .next (u (k + 1))) (k : Nat) (hk : k ≤ d) :
    AgreesButTiming (missingSets c k (u 0)) (u k) ∧ (u k).config = some c ∧ (u k).sp.state ≠ .idle
      ∧ (u k).sp.watchdog.isSome = true := by
  induction k with
  | zero => exact ⟨.refl _, hc, hidle, hw⟩
  | succ k ih =>
    obtain ⟨hag, hck, hik, hwk⟩ := ih (by omega)
    have hnext := hu k (by omega)
    rw [exec_watchdogExpiry hck hik hwk, Host.Outcome.next.injEq] at hnext
    rw [← hnext, missingSets_succ]
    refine ⟨(missingSet_agrees c hag).retime _ _, by simpa using hck, ?_, rfl⟩
    simpa [afterExpiry] using missSet_not_idle hik

/-- Settles O20: an expiry and a frame ahead both fill the next set, which reads neither the expected
number nor the watchdog. -/
theorem expiryBeforeAFrameTakesOneOfItsSets : Obligations.ExpiryBeforeAFrameTakesOneOfItsSets := by
  refine ⟨?_, ?_⟩
  · intro s t c bytes e hc _ hrun hw hm he hlen hcrc ht
    have hidle : s.sp.state ≠ .idle := by simp [hrun]
    rw [exec_watchdogExpiry hc hidle hw, Host.Outcome.next.injEq] at ht
    have hag : AgreesButTiming (missingSet c s) t := ht ▸ (AgreesButTiming.refl _).retime _ _
    have hct : t.config = some c := by simpa [hag.port.1] using hc
    have hit : t.sp.state ≠ .idle := by
      rw [hag.port.2.1, missingSet_sp]
      exact missSet_not_idle hidle
    have het : t.sp.expected = some (e + 1) := by
      have h64 : ¬ 64 ≤ s.sp.missing + 1 := by omega
      rw [← ht]
      simp [afterExpiry, missSet_eq, becomesLost, h64, he]
    change (1 ≤ (sampleSequence bytes - e).toNat → (sampleSequence bytes - e).toNat ≤ 127 → _)
      ∧ (sampleSequence bytes = e → _)
    refine ⟨fun h1 h127 => ?_, fun heq => ?_⟩
    · have hd : (sampleSequence bytes - e).toNat = (sampleSequence bytes - (e + 1)).toNat + 1 := by
        generalize sampleSequence bytes = q at *
        bv_omega
      rw [exec_frame_ahead hc hidle hlen hcrc he h127,
        exec_frame_ahead hct hit hlen hcrc het (by omega), hd]
      exact congrArg _ (receivedSet_agrees c _ _ (missingSets_agrees c _ hag))
    · refine exec_frame_behind het ?_
      rw [heq]
      bv_omega
  · intro u c bytes e s d hc hidle hw he hd hlen hcrc hu last
    obtain ⟨hag, hcd, hid, _⟩ := expiries_fill hc hidle hw hu d (le_refl d)
    have hahead := exec_frame_ahead hc hidle hlen hcrc he hd
    have hlast : exec (.sampleSetFrame bytes 0 false) last
        = .next (receivedSet c (sampleSequence bytes) (sampleValues bytes) last) := by
      simpa [missingSets] using exec_frame_ahead (s := last) (e := sampleSequence bytes) hcd hid hlen hcrc
        rfl (by simp)
    refine ⟨?_, fun hrun hm h64 => ?_⟩
    · rw [hahead, hlast]
      exact congrArg _ (receivedSet_agrees c _ _ (hag.retime _ _)).symm
    · obtain ⟨hmiss, hstate, hlatch⟩ := missingSets_reach c hrun hm d
      refine ⟨?_, ?_, _, hahead, rfl, rfl, rfl, ?_⟩
      · rw [hag.port.2.1, hstate, if_pos h64]
      · rw [hag.port.2.2, hmiss]
        omega
      · exact alerts_takeAllDue (p := fun a => a.latches.getLsbD 7 = true) sampleLatch_raise (hlatch h64)

end Sys2Proof.Machine
end

section
namespace Sys2Proof.Machine

/-! ## Interval IDs -/

/-- A day has at least 24 intervals (R32). -/
theorem perDay_ge (code : Nat) : 24 ≤ perDay code := by
  unfold perDay minutesOf
  split <;> decide

/-- An ID and its successor differ, and the one is the other's predecessor (R33). -/
theorem predId_succId {d : Nat} {i : IntervalId} (hd : 2 ≤ d) (hday : i.day < 65536) (hiod : i.iod < d) :
    predId d (succId d i) = i ∧ i ≠ succId d i := by
  obtain ⟨day, iod⟩ := i
  dsimp only at hday hiod
  unfold succId predId
  dsimp only
  split
  · rw [if_pos (Nat.succ_pos iod)]
    exact ⟨rfl, by simp⟩
  · rw [if_neg (by simp)]
    refine ⟨?_, ?_⟩
    · simp only [IntervalId.mk.injEq]
      omega
    · simp only [ne_eq, IntervalId.mk.injEq, not_and]
      omega

/-! ## Early closes as record updates -/

theorem putRecord_with_line (r : Record) (s : State) (l : Line) :
    putRecord r { s with line := l } = { putRecord r s with line := l } := by
  unfold putRecord
  dsimp only
  split <;> rfl

theorem closeOpenBlock_with_line (c : Setup) (j : Bool) (s : State) (l : Line) :
    closeOpenBlock c j { s with line := l } = { closeOpenBlock c j s with line := l } := by
  unfold closeOpenBlock
  dsimp only
  split <;> rfl

theorem closeOpenBlock_blockSets (c : Setup) (j : Bool) (s : State) :
    (closeOpenBlock c j s).ne.blockSets = 0 := by
  unfold closeOpenBlock
  split
  · assumption
  · rfl

/-- The record of an interval closed early, in the words of `earlyRecord` (R36, R99 to R102). -/
theorem loneRecord_early (c : Setup) (cause : EarlyCause) (op : OpState) (s : State) :
    loneRecord c (takeFigures true s) (earlyMarks cause op s.line.barred)
      = earlyRecord c s (cause == .hold) (op == .resync || cause == .resync || cause == .adoption)
          (op == .run) := by
  simp [loneRecord, buildRecord, takeFigures, earlyMarks, earlyRecord, importSum, exportSum, stationBit]

/-- An early close in RESYNC: the open block closes, and the interval's record is made (R36, R102). -/
theorem earlyClose_resync {c : Setup} {cause : EarlyCause} {s : State} (hop : s.supply.op = .resync)
    (hw : s.it.window = none) :
    earlyClose c cause s =
      { clearInterval (putRecord
          (earlyRecord c (closeOpenBlock c (cause != .hold) s) (cause == .hold) true false)
          (closeOpenBlock c (cause != .hold) s)) with su := emptyEarly s.su } := by
  have hset : settleOpenWindow c (closeOpenBlock c (cause != .hold) s)
      = closeOpenBlock c (cause != .hold) s := by
    simp [settleOpenWindow, hw]
  have hrun : (OpState.resync == OpState.run) = false := rfl
  simp only [earlyClose, hset, soloEffects, hop, loneRecord_early, hrun]
  simp

/-! ## A frame that is accepted -/

theorem setChan_setChan (l : Line) (ch : Channel) (a b : Chan) :
    setChan (setChan l ch a) ch b = setChan l ch b := by cases ch <;> rfl

/-- The line after an ACCEPTED frame: the channel ready, one count in its favour, and the frame's key
in the filter (R70, R72, R73). -/
def acceptedLine (live : Bool) (ch : Channel) (f : GroupFrame) (l : Line) : Line :=
  { judgeLine live
      (setChan l ch
        { chanOf l ch with
          recv := .ready
          errors := (chanOf l ch).errors - 1
          state :=
            if (chanOf l ch).state = .degraded ∧ (chanOf l ch).errors ≤ 1 then .good
            else (chanOf l ch).state }) with
    filter := enterKey ⟨f.station, frameKind f, f.id⟩ l.filter }

theorem mem_enterKey (k : FilterKey) (f : List FilterKey) : k ∈ enterKey k f := by
  unfold enterKey
  split <;> simp

/-- The checks of R71 pass a frame of the group from another station whose key is new. -/
theorem frameOutcome_accepted {c : Setup} {filter : List FilterKey} {bytes : List Byte}
    (hcheck : frameCheck bytes = true) (hform : frameMalformed (readFrame bytes) = false)
    (hgroup : (readFrame bytes).group = c.group) (hst : (readFrame bytes).station ≠ c.station)
    (hkey : frameKey (readFrame bytes) ∉ filter) : frameOutcome c filter bytes = .accepted := by
  simp [frameOutcome, hcheck, hform, hgroup, hst, hkey]

/-- An ACCEPTED frame changes the line and is passed on (R72 to R74). -/
theorem acceptFrame_eq {s : State} (c : Setup) {ch : Channel} (f : GroupFrame)
    (hoff : (chanOf s.line ch).state ≠ .off) :
    acceptFrame c ch f (setRecv ch .ready s)
      = passOn c ch f { s with line := acceptedLine (isLive s) ch f s.line } := by
  have hline : (countGood ch (setRecv ch .ready s)).line
      = judgeLine (isLive s)
          (setChan s.line ch
            { chanOf s.line ch with
              recv := .ready
              errors := (chanOf s.line ch).errors - 1
              state :=
                if (chanOf s.line ch).state = .degraded ∧ (chanOf s.line ch).errors ≤ 1 then .good
                else (chanOf s.line ch).state }) := by
    simp [countGood, setRecv, lineErrorDown, setChan_setChan, errorDown, hoff, isLive]
  simp only [acceptFrame, hline, judgeLine_filter, setChan_filter]
  rfl

/-- COMPLETE_FRAME of an ACCEPTED frame (R71). -/
theorem exec_completeFrame_accepted {s : State} {c : Setup} {ch : Channel} {bytes : List Byte}
    (hn : nothingDue s = true) (hc : s.config = some c) (hoff : (chanOf s.line ch).state ≠ .off)
    (hr : (chanOf s.line ch).recv = .receiving)
    (hlen : expectedLength (bytes.getD 0 0) = some bytes.length)
    (hacc : frameOutcome c s.line.filter bytes = .accepted) :
    exec (.completeFrame ch bytes) s =
      .next (passOn c ch (readFrame bytes)
        { s with line := acceptedLine (isLive s) ch (readFrame bytes) s.line }) := by
  have hfilter : (setRecv ch .ready s).line.filter = s.line.filter := by simp [setRecv]
  rw [← acceptFrame_eq c _ hoff, exec_after]
  simp only [after, takeDue_of_nothingDue hn, frameCompletes, hc, hr, if_true, hlen, judgeFrame, hfilter,
    hacc]

/-! ## Adoption -/

/-- The key of the frame joins the filter, and a PRESENCE handed over leaves the filter alone. -/
theorem handPresence_filter (live : Bool) (id : IntervalId) (l : Line) :
    (handPresence live id l).filter = l.filter := by
  obtain ⟨_, _, _, hfilter, _⟩ := makeRoom_frame l
  unfold handPresence
  split
  · rfl
  · simpa [addEntry] using hfilter

/-- A block close leaves the host latch and the cutoff latch as they are (R107 to R110). -/
theorem judgeBlock_latches (c : Setup) (live : Bool) (net : Nat) (e : Limiter) :
    (judgeBlock c live net e).latch = e.latch
      ∧ (judgeBlock c live net e).cutoffLatch = e.cutoffLatch := by
  rcases judgeBlock_cases c live net e with he | he | he | ⟨_, _, he⟩ | he | he | he <;>
    rw [he] <;> exact ⟨takeCap_latch e, takeCap_cutoffLatch e⟩

theorem closeOpenBlock_latches (c : Setup) (j : Bool) (s : State) :
    (closeOpenBlock c j s).el.latch = s.el.latch
      ∧ (closeOpenBlock c j s).el.cutoffLatch = s.el.cutoffLatch := by
  unfold closeOpenBlock closeBlock
  split
  · exact ⟨rfl, rfl⟩
  · dsimp only
    split
    · exact judgeBlock_latches _ _ _ _
    · exact ⟨rfl, rfl⟩

/-- The entries after an adoption: early slots emptied, the frame's sender heard (R79, R85). -/
theorem updatePeer_emptyEarly (station : Nat) (ch : Channel) (id : IntervalId) (u : Settlement) :
    updatePeer station (touchPeer ch id) (emptyEarly u).peers
      = u.peers.map fun p =>
          if p.station = some station then
            { p with early := none, state := .present, missed := 0, lastId := some id,
                     lastChannel := some ch }
          else { p with early := none } := by
  simp only [updatePeer, emptyEarly, List.map_map]
  rfl

/-- A frame whose report, if it is one, is LATE touches its sender's entry and nothing else (R79, R86). -/
theorem receiveFrame_late {c : Setup} {it : IntervalTimer} {ch : Channel} {cap : Option Capture}
    {f : GroupFrame} {u : Settlement}
    (h : ∀ net delay, f.body = .report net delay → classifyReport c it u.closing f delay cap = .late) :
    receiveFrame c it ch cap f u
      = { u with peers := updatePeer f.station (touchPeer ch f.id) u.peers } := by
  unfold receiveFrame
  dsimp only
  split
  · rfl
  · rename_i net delay hb
    rw [h net delay hb]
    rfl

/-- A report of the interval before the one in progress is LATE where no window is open (R82). -/
theorem classifyReport_late {c : Setup} {it : IntervalTimer} {closing : Option Figures} {f : GroupFrame}
    {delay : Nat} {cap : Option Capture} (hlen : f.lengthCode = c.lengthCode) (hw : it.window = none)
    (hprev : predId (perDay c.lengthCode) it.id = f.id) (hne : f.id ≠ it.id) :
    classifyReport c it closing f delay cap = .late := by
  simp [classifyReport, hlen, hw, hprev, hne]

/-- An elapsed count is limited to L - 1 (R155). -/
theorem limitElapsed_eq (c : Setup) (e : Nat) :
    limitElapsed c e = min e (nominalLength c.lengthCode - 1) := by
  have := nominalLength_pos c.lengthCode
  unfold limitElapsed
  split <;> omega

/-- A received frame's ID lies in a day of its own length code once it is not MALFORMED (R71). -/
theorem readFrame_id {bytes : List Byte} (h : frameMalformed (readFrame bytes) = false) :
    (readFrame bytes).id.day < 65536
      ∧ (readFrame bytes).id.iod < perDay (readFrame bytes).lengthCode := by
  have hday : (readFrame bytes).id.day < 256 ^ 2 := by
    unfold readFrame
    split <;> exact fieldAt_lt _ _ _
  refine ⟨hday, ?_⟩
  simp only [frameMalformed, Bool.or_eq_false_iff, decide_eq_false_iff_not] at h
  exact Nat.lt_of_not_le h.2

/-- The report that is adopted is LATE in the interval it gives (R82, R155). -/
theorem classifyReport_adopted {c : Setup} {it : IntervalTimer} {closing : Option Figures}
    {bytes : List Byte} {delay : Nat} {cap : Option Capture}
    (hform : frameMalformed (readFrame bytes) = false)
    (hlen : (readFrame bytes).lengthCode = c.lengthCode) (hw : it.window = none)
    (hid : it.id = succId (perDay c.lengthCode) (readFrame bytes).id) :
    classifyReport c it closing (readFrame bytes) delay cap = .late := by
  obtain ⟨hday, hiod⟩ := readFrame_id hform
  have hd := perDay_ge c.lengthCode
  obtain ⟨hprev, hne⟩ := predId_succId (d := perDay c.lengthCode) (i := (readFrame bytes).id)
    (by omega) hday (hlen ▸ hiod)
  exact classifyReport_late hlen hw (hid ▸ hprev) (hid ▸ hne)

/-- In RESYNC a frame that gives a position is adopted (R154). -/
theorem passOn_adopts {c : Setup} {ch : Channel} {f : GroupFrame} {s : State} {k : Capture}
    {id : IntervalId} {position : Nat} (hop : s.supply.op = .resync) (hk : captureOf s.it ch = some k)
    (ha : adoptionPosition c f k.since = some (id, position)) :
    passOn c ch f s = adopt c ch f (some k) id position s := by
  simp only [passOn, hop, offerTiming, hk, ha]

/-- In RESYNC a frame that gives none has no further effect (R154). -/
theorem passOn_no_timing {c : Setup} {ch : Channel} {f : GroupFrame} {s : State} {k : Capture}
    (hop : s.supply.op = .resync) (hk : captureOf s.it ch = some k)
    (ha : adoptionPosition c f k.since = none) : passOn c ch f s = s := by
  simp only [passOn, hop, offerTiming, hk, ha]

/-- Adoption in RESYNC as a record update (R154 to R156), for a frame that is LATE in its new interval. -/
theorem adopt_eq {s : State} {c : Setup} {ch : Channel} {f : GroupFrame} {cap : Option Capture}
    {id : IntervalId} {position : Nat} (hop : s.supply.op = .resync) (hw : s.it.window = none)
    (hlate : ∀ net delay it, f.body = .report net delay → it.window = none → it.id = id →
      classifyReport c it s.su.closing f delay cap = .late) :
    adopt c ch f cap id position s =
      { putRecord (earlyRecord c (closeOpenBlock c true s) false true false) (closeOpenBlock c true s) with
        supply := { s.supply with op := .run }
        it :=
          { s.it with
            id := id
            elapsed := min position (nominalLength c.lengthCode - 1)
            startPos := min position (nominalLength c.lengthCode - 1)
            trim := 0
            length := some (nominalLength c.lengthCode)
            presence := c.presence }
        rb :=
          { (closeOpenBlock c true s).rb with
            band := bandFor c.calendar id.iod
            impQuanta := 0
            expQuanta := 0
            saturated := false }
        ne := { (closeOpenBlock c true s).ne with heldSeen := false, faultSeen := false }
        el := startFlags (closeOpenBlock c true s).el
        line := handPresence true id s.line
        su := { s.su with peers := updatePeer f.station (touchPeer ch f.id) (emptyEarly s.su).peers } } := by
  have hadoption : (EarlyCause.adoption != .hold) = true ∧ (EarlyCause.adoption == .hold) = false :=
    ⟨rfl, rfl⟩
  have hlate' : ∀ net delay, f.body = .report net delay →
      classifyReport c
        (enterRun c id (limitElapsed c position) (earlyClose c .adoption s)).it
        (emptyEarly s.su).closing f delay cap = .late := by
    intro net delay hb
    refine hlate net delay _ hb ?_ rfl
    simp [enterRun, beginInterval, setOp, earlyClose_resync hop hw, clearInterval, hw]
  have hsu : (enterRun c id (limitElapsed c position) (earlyClose c .adoption s)).su = emptyEarly s.su := by
    simp [earlyClose_resync hop hw]
  unfold adopt
  dsimp only
  rw [hsu, receiveFrame_late hlate']
  simp [enterRun, beginInterval, setOp, earlyClose_resync hop hw, clearInterval, limitElapsed_eq,
    hadoption.1, hadoption.2, emptyEarly]

/-- Settles O42. -/
theorem adoptionOfTiming : Obligations.AdoptionOfTiming := by
  intro s c ch bytes k hn hc hop hoff hr hw hk hlen hcheck f hform hgroup hst hkey line
  have hl : isLive s = true := (isLive_iff s).mpr (.inr hop)
  have hexec := exec_completeFrame_accepted hn hc hoff hr hlen
    (frameOutcome_accepted hcheck hform hgroup hst hkey)
  rw [hl] at hexec
  change exec (.completeFrame ch bytes) s = .next (passOn c ch f { s with line := line }) at hexec
  refine ⟨fun id position hcode hpos => ?_, fun hno => ?_⟩
  · have hadopt : adoptionPosition c f k.since = some (id, position) := by
      rcases hpos with ⟨net, delay, hb, rfl, rfl⟩ | ⟨blocks, hb, hlt, rfl, rfl⟩
      · simp [adoptionPosition, hcode, hb]
      · simp [adoptionPosition, hcode, hb, hlt]
    intro e s1 t
    refine ⟨?_, closeOpenBlock_blockSets c true s, (closeOpenBlock_latches c true s).1,
      (closeOpenBlock_latches c true s).2, ?_, ?_, ?_, ?_, ?_⟩
    · rw [hexec, passOn_adopts (s := { s with line := line }) hop hk hadopt]
      have hbarred : earlyRecord c { s1 with line := line } false true false
          = earlyRecord c s1 false true false := by
        have : line.barred = s1.line.barred := by simp [line, s1]
        simp only [earlyRecord, this]
      have hlate : ∀ net delay it, f.body = .report net delay → it.window = none → it.id = id →
          classifyReport c it s.su.closing f delay (some k) = .late := by
        intro net delay it hb hwin hit
        refine classifyReport_adopted hform hcode hwin (hit.trans ?_)
        rcases hpos with ⟨_, _, _, hid, _⟩ | ⟨_, hb', _⟩
        · exact hid
        · rw [hb] at hb'
          cases hb'
      rw [adopt_eq (s := { s with line := line }) hop hw hlate, closeOpenBlock_with_line, hbarred,
        putRecord_with_line, updatePeer_emptyEarly]
      rfl
    · simp [t, s1]
    · simp [t, s1]
    · simp [t, s1]
    · simp [t, s1]
    · show _ ∈ (handPresence true id line).filter
      rw [handPresence_filter]
      exact mem_enterKey _ _
  · have hadopt : adoptionPosition c f k.since = none := by
      rcases hno with hcode | ⟨blocks, hb⟩ | ⟨st, hb⟩
      · simp [adoptionPosition, hcode]
      · simp [adoptionPosition, hb]
      · simp [adoptionPosition, hb]
    rw [hexec, passOn_no_timing (s := { s with line := line }) hop hk hadopt]

end Sys2Proof.Machine
end

section
namespace Sys2Proof.Machine

/-! ## Acceptance of a configuration -/

/-- A block passes exactly where every check of R145 passes. -/
theorem configFailure_none_iff (b : List Byte) (q : Option Nat) :
    configFailure b q = none ↔ ∀ p ∈ configChecks b q, p.2 = true := by
  simp [configFailure]

/-- A day position that passes lies within its interval (R145, index 16). -/
theorem passed_position {b : List Byte} {q : Option Nat} (h : configFailure b q = none)
    {p : DayPosition} (hp : configDayPosition b = some p) :
    p.elapsed < nominalLength (configSetup b).lengthCode := by
  have h16 := (configFailure_none_iff b q).mp h
    (16, decide (fieldAt b 57 1 = 0)
      || (decide (fieldAt b 57 1 = 1) && decide (fieldAt b 60 2 < perDay (fieldAt b 15 1))
          && decide (fieldAt b 62 4 < nominalLength (fieldAt b 15 1)))) (by simp [configChecks])
  unfold configDayPosition at hp
  split at hp
  · rename_i h1
    obtain rfl := Option.some.inj hp
    simp only [h1, Bool.or_eq_true, Bool.and_eq_true, decide_eq_true_eq] at h16
    rcases h16 with h16 | ⟨_, h16⟩
    · simp at h16
    · exact h16
  · simp at hp

/-- LOAD_CONFIG in START of a block that passes: the part is configured and START left, and PFW active
then is a HOLD entry in the same event (R145 to R149). -/
theorem exec_loadConfig_accepted {s : State} {block : List Byte} (hc : s.config = none)
    (hop : s.supply.op = .start) (hserve : s.port.serving = true) (hlen : block.length = 126)
    (hpass : configFailure block (checkedQ s) = none) :
    exec (.loadConfig block) s =
      .next (answered (0x01#8 :: block)
        (if s.supply.retentionValid && (configOpening block).isSome then 0xA1#8 else 0xA0#8) []
        (holdIfWarned (configAccepted block s))) := by
  have htd : takeDue s = s := by simp [takeDue, hc]
  have htake : block.take 126 = block := List.take_of_length_le (by omega)
  have hlt : ¬ block.length < 126 := by omega
  simp only [exec_after, after, if_neg hlt, htd, served, hserve, htake, loadConfigActs, hop, hpass,
    if_true, respond, answered, acceptResult, apply_ite resultByte, mosi, Option.getD_some]
  rfl

/-- Nothing is due where the open block is empty and the elapsed count lies below the length. -/
theorem nothingDue_of_fresh {s : State} {n : Nat} (hb : s.ne.blockSets = 0) (hn : s.it.length = some n)
    (he : s.it.elapsed < n) : nothingDue s = true := by
  have hcc := countComplete_of_lt hn he
  rw [nothingDue_iff]
  exact .inr ⟨by simp [blockDue, hcc, hb], hcc⟩

/-- The interval in which a part that leaves START begins: below its length, in RUN or RESYNC. -/
theorem configAccepted_begins {s : State} {b : List Byte} {q : Option Nat}
    (h : configFailure b q = none) :
    (configAccepted b s).it.length = some (nominalLength (configSetup b).lengthCode)
      ∧ (configAccepted b s).it.elapsed < nominalLength (configSetup b).lengthCode
      ∧ (configAccepted b s).ne.blockSets = s.ne.blockSets
      ∧ (configAccepted b s).supply.op ≠ .hold
      ∧ (configAccepted b s).supply.resetHeld = s.supply.resetHeld := by
  have hne : (acceptNetting s.supply.retentionValid s.ne).blockSets = s.ne.blockSets := by
    unfold acceptNetting
    split <;> rfl
  have hpos := nominalLength_pos (configSetup b).lengthCode
  unfold configAccepted leaveStart
  split
  · rename_i p hp
    exact ⟨rfl, passed_position h hp, hne, by simp [enterRun, beginInterval, setOp], rfl⟩
  · exact ⟨rfl, show 0 < _ by omega, hne, by simp [enterResync, beginInterval, setOp], rfl⟩

/-- HOLD_ENTRY with PFW still active is the HOLD entry that `holdIfWarned` takes (R149). -/
theorem exec_holdEntry_of_fresh {s : State} (hn : nothingDue s = true) (hheld : s.supply.resetHeld = false)
    (hop : s.supply.op ≠ .hold) : exec (.holdEntry true) s = .next (enterHold true s) := by
  simp [exec_after, after, takeDue_of_nothingDue hn, unlessHeld, hheld, pfwActive, hop]

end Sys2Proof.Machine
end

section
namespace Sys2Proof.Machine

/-! ## Fields of a layout -/

/-- The field that stands first is read back (R174). -/
theorem fieldAt_here (n v : Nat) (rest : List Byte) : fieldAt (beBytes n v ++ rest) 0 n = v % 256 ^ n := by
  rw [fieldAt, bytesAt_append_left (by simp), ← beNat_beBytes_mod]
  congr 1
  simpa using bytesAt_zero_all (beBytes n v)

/-- A field beyond the first bytes is read from the rest. -/
theorem fieldAt_append {a : List Byte} {off : Nat} (h : a.length ≤ off) (b : List Byte) (len : Nat) :
    fieldAt (a ++ b) off len = fieldAt b (off - a.length) len := by
  rw [fieldAt, bytesAt_append_right h, fieldAt]

theorem fieldAt_skip {n off : Nat} (h : n ≤ off) (v : Nat) (rest : List Byte) (len : Nat) :
    fieldAt (beBytes n v ++ rest) off len = fieldAt rest (off - n) len := by
  rw [fieldAt_append (by simpa using h), beBytes_length]

/-- A field that ends before the rest is read without it. -/
theorem fieldAt_append_left {a b : List Byte} {off len : Nat} (h : off + len ≤ a.length) :
    fieldAt (a ++ b) off len = fieldAt a off len := by
  rw [fieldAt, bytesAt_append_left h, fieldAt]

/-! ## The configuration block -/

/-- The fields before the calendar points (R177, offsets 0 to 16). -/
def headBytes (c : Setup) : List Byte :=
  beBytes 1 c.station ++ (beBytes 1 c.group
    ++ (beBytes 1 (flagCode c.phase1 + 2 * flagCode c.phase2 + 4 * flagCode c.phase3)
    ++ (beBytes 2 c.gain1 ++ (beBytes 2 c.gain2 ++ (beBytes 2 c.gain3
    ++ (beBytes 1 (if c.mode = .phaseSum then 0 else 1) ++ (beBytes 5 c.quantum
    ++ (beBytes 1 c.lengthCode ++ beBytes 1 c.calendar.length))))))))

/-- The eight places of the calendar points (R177, offsets 17 to 40). -/
def calendarBytes (cal : List SwitchPoint) : List Byte :=
  (cal.flatMap pointBytes ++ beBytes 24 0).take 24

/-- The ten totals (R177, offsets 76 to 125). -/
def openingBytes (t : Totals) : List Byte :=
  beBytes 5 t.b0.imp ++ (beBytes 5 t.b0.exp ++ (beBytes 5 t.b1.imp ++ (beBytes 5 t.b1.exp
    ++ (beBytes 5 t.b2.imp ++ (beBytes 5 t.b2.exp ++ (beBytes 5 t.b3.imp ++ (beBytes 5 t.b3.exp
    ++ (beBytes 5 t.unbanded.imp ++ beBytes 5 t.unbanded.exp))))))))

/-- The fields after the calendar points and before the totals (R177, offsets 41 to 75). -/
def middleBytes (c : Setup) (hasPos : Bool) (p : DayPosition) (hasTotals : Bool) : List Byte :=
  beBytes 5 c.baseCap ++ (beBytes 5 c.ceilingCap ++ (beBytes 2 c.holdOffLength
    ++ (beBytes 2 c.restoreCount ++ (beBytes 1 (flagCode c.enableL + 2 * flagCode c.enableH)
    ++ (beBytes 1 c.presence ++ (beBytes 1 (flagCode hasPos) ++ (beBytes 2 p.id.day
    ++ (beBytes 2 p.id.iod ++ (beBytes 4 p.elapsed ++ (beBytes 4 c.window ++ (beBytes 4 c.creep
    ++ (beBytes 1 c.wired.toNat ++ beBytes 1 (flagCode hasTotals)))))))))))))

/-- The position that an absent one leaves in the block, and the totals. -/
def noPosition : DayPosition := ⟨⟨0, 0⟩, 0⟩

def noTotals : Totals := ⟨⟨0, 0⟩, ⟨0, 0⟩, ⟨0, 0⟩, ⟨0, 0⟩, ⟨0, 0⟩⟩

/-- The block by its parts (R177). -/
theorem configBlock_eq (c : Setup) (pos : Option DayPosition) (opening : Option Totals) :
    configBlock c pos opening =
      headBytes c ++ (calendarBytes c.calendar
        ++ (middleBytes c pos.isSome (pos.getD noPosition) opening.isSome
          ++ openingBytes (opening.getD noTotals))) := by
  simp only [configBlock, headBytes, calendarBytes, middleBytes, openingBytes, noPosition, noTotals,
    List.append_assoc]

theorem headBytes_length (c : Setup) : (headBytes c).length = 17 := by simp [headBytes]

theorem calendarBytes_length (cal : List SwitchPoint) : (calendarBytes cal).length = 24 := by
  simp [calendarBytes]

theorem middleBytes_length (c : Setup) (a : Bool) (p : DayPosition) (b : Bool) :
    (middleBytes c a p b).length = 35 := by simp [middleBytes]

theorem openingBytes_length (t : Totals) : (openingBytes t).length = 50 := by simp [openingBytes]

theorem configBlock_length (c : Setup) (pos : Option DayPosition) (opening : Option Totals) :
    (configBlock c pos opening).length = 126 := by
  simp [configBlock_eq, headBytes_length, calendarBytes_length, middleBytes_length, openingBytes_length]

section Offsets

variable (c : Setup) (pos : Option DayPosition) (opening : Option Totals) {off : Nat} (len : Nat)

/-- The fields at offsets 0 to 16 stand in the head. -/
theorem configBlock_head (h : off + len ≤ 17) :
    fieldAt (configBlock c pos opening) off len = fieldAt (headBytes c) off len := by
  rw [configBlock_eq, fieldAt_append_left (by rwa [headBytes_length])]

/-- The fields at offsets 41 to 75 stand after the calendar. -/
theorem configBlock_middle (h : 41 ≤ off) (h' : off + len ≤ 76) :
    fieldAt (configBlock c pos opening) off len
      = fieldAt (middleBytes c pos.isSome (pos.getD noPosition) opening.isSome) (off - 41) len := by
  rw [configBlock_eq, fieldAt_append (by rw [headBytes_length]; omega), headBytes_length,
    fieldAt_append (by rw [calendarBytes_length]; omega), calendarBytes_length,
    show off - 17 - 24 = off - 41 by omega, fieldAt_append_left (by rw [middleBytes_length]; omega)]

/-- The totals stand at offsets 76 to 125. -/
theorem configBlock_opening (h : 76 ≤ off) :
    fieldAt (configBlock c pos opening) off len
      = fieldAt (openingBytes (opening.getD noTotals)) (off - 76) len := by
  rw [configBlock_eq, fieldAt_append (by rw [headBytes_length]; omega), headBytes_length,
    fieldAt_append (by rw [calendarBytes_length]; omega), calendarBytes_length,
    fieldAt_append (by rw [middleBytes_length]; omega), middleBytes_length,
    show off - 17 - 24 - 35 = off - 76 by omega]

end Offsets

/-- A field that stands last is read back. -/
theorem fieldAt_last (n v : Nat) : fieldAt (beBytes n v) 0 n = v % 256 ^ n := by
  simpa using fieldAt_here n v []

/-! ## The calendar of the block -/

theorem pointBytes_length (p : SwitchPoint) : (pointBytes p).length = 3 := by simp [pointBytes]

theorem pointsBytes_length (cal : List SwitchPoint) : (cal.flatMap pointBytes).length = 3 * cal.length := by
  induction cal with
  | nil => rfl
  | cons p ps ih => simp [pointBytes_length, ih]; omega

/-- Points are read back one after another (R177). -/
theorem calendarPoints_points (pre rest : List Byte) (cal : List SwitchPoint)
    (h : ∀ p ∈ cal, p.iod < 65536) :
    calendarPoints (pre ++ (cal.flatMap pointBytes ++ rest)) cal.length pre.length
      = cal.map fun p => (p.iod, bandCode p.band) := by
  induction cal generalizing pre with
  | nil => rfl
  | cons p ps ih =>
    have hiod : p.iod < 256 ^ 2 := h p (List.mem_cons_self ..)
    have hband : bandCode p.band < 256 ^ 1 := by cases p.band <;> decide
    have hsplit : pre ++ ((p :: ps).flatMap pointBytes ++ rest)
        = pre ++ (beBytes 2 p.iod ++ (beBytes 1 (bandCode p.band) ++ (ps.flatMap pointBytes ++ rest))) := by
      simp [pointBytes]
    have hnext : pre ++ ((p :: ps).flatMap pointBytes ++ rest)
        = (pre ++ pointBytes p) ++ (ps.flatMap pointBytes ++ rest) := by simp
    have hfst : fieldAt (pre ++ ((p :: ps).flatMap pointBytes ++ rest)) pre.length 2 = p.iod := by
      rw [hsplit, fieldAt_append (le_refl _), Nat.sub_self, fieldAt_here, Nat.mod_eq_of_lt hiod]
    have hsnd : fieldAt (pre ++ ((p :: ps).flatMap pointBytes ++ rest)) (pre.length + 2) 1
        = bandCode p.band := by
      rw [hsplit, fieldAt_append (by omega), Nat.add_sub_cancel_left, fieldAt_skip (le_refl 2),
        Nat.sub_self, fieldAt_here, Nat.mod_eq_of_lt hband]
    have hih := ih (pre ++ pointBytes p) fun q hq => h q (List.mem_cons_of_mem _ hq)
    rw [List.length_append, pointBytes_length, ← hnext] at hih
    simp only [List.length_cons, calendarPoints, hfst, hsnd, hih, List.map_cons]

/-- The calendar is read back from its places. -/
theorem configBlock_calendar {c : Setup} (pos : Option DayPosition) (opening : Option Totals)
    (hlen : c.calendar.length ≤ 8) (h : ∀ p ∈ c.calendar, p.iod < 65536) :
    calendarPoints (configBlock c pos opening) c.calendar.length 17
      = c.calendar.map fun p => (p.iod, bandCode p.band) := by
  have hcal : calendarBytes c.calendar
      = c.calendar.flatMap pointBytes ++ (beBytes 24 0).take (24 - 3 * c.calendar.length) := by
    have hle := pointsBytes_length c.calendar
    rw [calendarBytes, List.take_append, List.take_of_length_le (by omega), hle]
  rw [configBlock_eq, hcal, List.append_assoc, ← headBytes_length c]
  exact calendarPoints_points _ _ _ h

/-- The calendar passes exactly where its points ascend and lie within a day, their bands being 0 to 3
(R46). -/
theorem calendarPasses_iff (d : Nat) (pts : List (Nat × Nat)) :
    calendarPasses d pts = true ↔
      (∀ p ∈ pts, p.1 < d ∧ p.2 ≤ 3) ∧ pts.Pairwise fun a b => a.1 < b.1 := by
  induction pts with
  | nil => simp [calendarPasses]
  | cons p rest ih =>
    obtain ⟨i, b⟩ := p
    simp only [calendarPasses, Bool.and_eq_true, decide_eq_true_eq, ih, List.forall_mem_cons,
      List.pairwise_cons]
    cases rest with
    | nil => simp
    | cons q rest =>
      obtain ⟨j, b'⟩ := q
      simp only [decide_eq_true_eq, List.forall_mem_cons, List.pairwise_cons]
      constructor
      · rintro ⟨⟨⟨hi, hb⟩, hij⟩, ⟨hq, hall⟩, hjall, hp⟩
        exact ⟨⟨⟨hi, hb⟩, hq, hall⟩, ⟨hij, fun a ha => hij.trans (hjall a ha)⟩, hjall, hp⟩
      · rintro ⟨⟨⟨hi, hb⟩, hq, hall⟩, ⟨hij, _⟩, hjall, hp⟩
        exact ⟨⟨⟨hi, hb⟩, hij⟩, ⟨hq, hall⟩, hjall, hp⟩

theorem bandOf_bandCode {b : Band} (h : b ≠ .unbanded) : bandOf (bandCode b) = b ∧ bandCode b ≤ 3 := by
  cases b <;> first | exact ⟨rfl, by decide⟩ | exact absurd rfl h

end Sys2Proof.Machine
end

section
namespace Sys2Proof.Machine

/-! ## The fields of the block -/

/-- The fields of a configuration fit their places in the block (R177). -/
structure SetupFits (c : Setup) : Prop where
  station : c.station < 256
  group : c.group < 256
  gain1 : c.gain1 < 65536
  gain2 : c.gain2 < 65536
  gain3 : c.gain3 < 65536
  quantum : c.quantum < 2 ^ 40
  lengthCode : c.lengthCode < 256
  calendar : c.calendar.length ≤ 8
  points : ∀ p ∈ c.calendar, p.iod < 65536 ∧ p.band ≠ .unbanded
  baseCap : c.baseCap < 2 ^ 40
  ceilingCap : c.ceilingCap < 2 ^ 40
  holdOffLength : c.holdOffLength < 65536
  restoreCount : c.restoreCount < 65536
  presence : c.presence < 256
  window : c.window < 2 ^ 32
  creep : c.creep < 2 ^ 32

/-- What the head of the block reads as. -/
theorem configBlock_headFields {c : Setup} (hc : SetupFits c) (pos : Option DayPosition)
    (opening : Option Totals) :
    fieldAt (configBlock c pos opening) 0 1 = c.station
      ∧ fieldAt (configBlock c pos opening) 1 1 = c.group
      ∧ fieldAt (configBlock c pos opening) 2 1
          = flagCode c.phase1 + 2 * flagCode c.phase2 + 4 * flagCode c.phase3
      ∧ fieldAt (configBlock c pos opening) 3 2 = c.gain1
      ∧ fieldAt (configBlock c pos opening) 5 2 = c.gain2
      ∧ fieldAt (configBlock c pos opening) 7 2 = c.gain3
      ∧ fieldAt (configBlock c pos opening) 9 1 = (if c.mode = .phaseSum then 0 else 1)
      ∧ fieldAt (configBlock c pos opening) 10 5 = c.quantum
      ∧ fieldAt (configBlock c pos opening) 15 1 = c.lengthCode
      ∧ fieldAt (configBlock c pos opening) 16 1 = c.calendar.length := by
  obtain ⟨hstation, hgroup, hgain1, hgain2, hgain3, hquantum, hcode, hcal, -⟩ := hc
  have hflag : ∀ b, flagCode b ≤ 1 := fun b => by cases b <;> decide
  have hmask : flagCode c.phase1 + 2 * flagCode c.phase2 + 4 * flagCode c.phase3 < 256 := by
    have h1 := hflag c.phase1
    have h2 := hflag c.phase2
    have h3 := hflag c.phase3
    omega
  have hmode : (if c.mode = .phaseSum then 0 else 1) < 256 := by split <;> decide
  simp only [configBlock_head, Nat.reduceAdd, Nat.reduceLeDiff, headBytes, fieldAt_skip, fieldAt_here,
    fieldAt_last, Nat.reduceSub]
  refine ⟨?_, ?_, ?_, ?_, ?_, ?_, ?_, ?_, ?_, ?_⟩ <;> exact Nat.mod_eq_of_lt (by omega)

/-- What the fields from the caps to the wired mask read as. -/
theorem configBlock_middleFields {c : Setup} (hc : SetupFits c) {pos : Option DayPosition}
    (hpos : ∀ p, pos = some p → p.id.day < 65536 ∧ p.id.iod < 65536 ∧ p.elapsed < 2 ^ 32)
    (opening : Option Totals) :
    fieldAt (configBlock c pos opening) 41 5 = c.baseCap
      ∧ fieldAt (configBlock c pos opening) 46 5 = c.ceilingCap
      ∧ fieldAt (configBlock c pos opening) 51 2 = c.holdOffLength
      ∧ fieldAt (configBlock c pos opening) 53 2 = c.restoreCount
      ∧ fieldAt (configBlock c pos opening) 55 1 = flagCode c.enableL + 2 * flagCode c.enableH
      ∧ fieldAt (configBlock c pos opening) 56 1 = c.presence
      ∧ fieldAt (configBlock c pos opening) 57 1 = flagCode pos.isSome
      ∧ fieldAt (configBlock c pos opening) 58 2 = (pos.getD noPosition).id.day
      ∧ fieldAt (configBlock c pos opening) 60 2 = (pos.getD noPosition).id.iod
      ∧ fieldAt (configBlock c pos opening) 62 4 = (pos.getD noPosition).elapsed
      ∧ fieldAt (configBlock c pos opening) 66 4 = c.window
      ∧ fieldAt (configBlock c pos opening) 70 4 = c.creep
      ∧ fieldAt (configBlock c pos opening) 74 1 = c.wired.toNat
      ∧ fieldAt (configBlock c pos opening) 75 1 = flagCode opening.isSome := by
  obtain ⟨-, -, -, -, -, -, -, -, -, hbase, hceil, hhold, hrest, hpres, hwin, hcreep⟩ := hc
  have hflag : ∀ b, flagCode b ≤ 1 := fun b => by cases b <;> decide
  have hl := hflag c.enableL
  have hh := hflag c.enableH
  have hp := hflag pos.isSome
  have ho := hflag opening.isSome
  have hwired := c.wired.isLt
  have hposition : (pos.getD noPosition).id.day < 65536 ∧ (pos.getD noPosition).id.iod < 65536
      ∧ (pos.getD noPosition).elapsed < 2 ^ 32 := by
    cases pos with
    | none => decide
    | some p => exact hpos p rfl
  obtain ⟨hday, hiod, hel⟩ := hposition
  simp only [configBlock_middle, Nat.reduceAdd, Nat.reduceLeDiff, middleBytes, fieldAt_skip, fieldAt_here,
    fieldAt_last, Nat.reduceSub]
  refine ⟨?_, ?_, ?_, ?_, ?_, ?_, ?_, ?_, ?_, ?_, ?_, ?_, ?_, ?_⟩ <;> exact Nat.mod_eq_of_lt (by omega)

/-- The opening totals are read back. -/
theorem configOpening_configBlock {c : Setup} (hc : SetupFits c) {pos : Option DayPosition}
    (hpos : ∀ p, pos = some p → p.id.day < 65536 ∧ p.id.iod < 65536 ∧ p.elapsed < 2 ^ 32)
    {opening : Option Totals}
    (ht : ∀ t b, opening = some t → (totalsOf t b).imp < 2 ^ 40 ∧ (totalsOf t b).exp < 2 ^ 40) :
    configOpening (configBlock c pos opening) = opening := by
  obtain ⟨_, _, _, _, _, _, _, _, _, _, _, _, _, hflag⟩ := configBlock_middleFields hc hpos opening
  unfold configOpening
  rw [hflag]
  cases opening with
  | none => rfl
  | some t =>
    obtain ⟨h0i, h0e⟩ := ht t .b0 rfl
    obtain ⟨h1i, h1e⟩ := ht t .b1 rfl
    obtain ⟨h2i, h2e⟩ := ht t .b2 rfl
    obtain ⟨h3i, h3e⟩ := ht t .b3 rfl
    obtain ⟨hui, hue⟩ := ht t .unbanded rfl
    simp only [totalsOf] at h0i h0e h1i h1e h2i h2e h3i h3e hui hue
    have hmod : ∀ n, n < 2 ^ 40 → n % 256 ^ 5 = n := fun n h => Nat.mod_eq_of_lt (by omega)
    simp only [configBlock_opening, Nat.reduceLeDiff, openingBytes, fieldAt_skip, fieldAt_here,
      fieldAt_last, Nat.reduceSub, Option.getD_some, hmod _ h0i, hmod _ h0e, hmod _ h1i, hmod _ h1e,
      hmod _ h2i, hmod _ h2e, hmod _ h3i, hmod _ h3e, hmod _ hui, hmod _ hue]
    rfl

/-- The day position is read back. -/
theorem configDayPosition_configBlock {c : Setup} (hc : SetupFits c) {pos : Option DayPosition}
    (hpos : ∀ p, pos = some p → p.id.day < 65536 ∧ p.id.iod < 65536 ∧ p.elapsed < 2 ^ 32)
    (opening : Option Totals) : configDayPosition (configBlock c pos opening) = pos := by
  obtain ⟨_, _, _, _, _, _, hflag, hday, hiod, hel, _⟩ := configBlock_middleFields hc hpos opening
  unfold configDayPosition
  rw [hflag, hday, hiod, hel]
  cases pos <;> rfl

/-- W is clamped into 3200 to L/2 (R146). -/
theorem clampWindow_eq (code w : Nat) :
    clampWindow code w = max 3200 (min w (nominalLength code / 2)) := by
  have := nominalLength_pos code
  unfold clampWindow
  split
  · omega
  · split <;> omega

/-- The enabled phases and channels are read back from their bits. -/
theorem testBit_flags (a b d : Bool) :
    (flagCode a + 2 * flagCode b + 4 * flagCode d).testBit 0 = a
      ∧ (flagCode a + 2 * flagCode b + 4 * flagCode d).testBit 1 = b
      ∧ (flagCode a + 2 * flagCode b + 4 * flagCode d).testBit 2 = d
      ∧ (flagCode a + 2 * flagCode b).testBit 0 = a ∧ (flagCode a + 2 * flagCode b).testBit 1 = b := by
  cases a <;> cases b <;> cases d <;> decide

/-- The configuration is read back field for field, W clamped (R146, R177). -/
theorem configSetup_configBlock {c : Setup} (hc : SetupFits c) {pos : Option DayPosition}
    (hpos : ∀ p, pos = some p → p.id.day < 65536 ∧ p.id.iod < 65536 ∧ p.elapsed < 2 ^ 32)
    (opening : Option Totals) :
    configSetup (configBlock c pos opening)
      = { c with window := max 3200 (min c.window (nominalLength c.lengthCode / 2)) } := by
  obtain ⟨f0, f1, f2, f3, f5, f7, f9, f10, f15, f16⟩ := configBlock_headFields hc pos opening
  obtain ⟨f41, f46, f51, f53, f55, f56, _, _, _, _, f66, f70, f74, _⟩ :=
    configBlock_middleFields hc hpos opening
  have hcal := configBlock_calendar pos opening hc.calendar fun p hp => (hc.points p hp).1
  obtain ⟨hp1, hp2, hp3, _⟩ := testBit_flags c.phase1 c.phase2 c.phase3
  obtain ⟨_, _, _, hl, hh⟩ := testBit_flags c.enableL c.enableH false
  have hmode : (if (if c.mode = .phaseSum then 0 else 1) = 0 then NettingMode.phaseSum else .perPhase)
      = c.mode := by
    cases c.mode <;> rfl
  have hpoints : (c.calendar.map fun p => (p.iod, bandCode p.band)).map
      (fun p => (⟨p.1, bandOf p.2⟩ : SwitchPoint)) = c.calendar := by
    rw [List.map_map]
    refine (List.map_congr_left fun p hp => ?_).trans (List.map_id _)
    simp [(bandOf_bandCode (hc.points p hp).2).1]
  unfold configSetup
  simp only [f0, f1, f2, f3, f5, f7, f9, f10, f15, f16, f41, f46, f51, f53, f55, f56, f66, f70, f74, hcal,
    hp1, hp2, hp3, hl, hh, hmode, hpoints, clampWindow_eq, BitVec.ofNat_toNat, BitVec.setWidth_eq]

/-! ## The checks of the block -/

/-- A calendar of the block passes where its points ascend within a day. -/
theorem calendarPasses_block {cal : List SwitchPoint} (d : Nat) (h : ∀ p ∈ cal, p.band ≠ .unbanded) :
    calendarPasses d (cal.map fun p => (p.iod, bandCode p.band)) = true ↔
      cal.Pairwise (fun a b => a.iod < b.iod) ∧ ∀ p ∈ cal, p.iod < d := by
  rw [calendarPasses_iff, List.pairwise_map, List.forall_mem_map]
  constructor
  · rintro ⟨hall, hp⟩
    exact ⟨hp, fun p hmem => (hall p hmem).1⟩
  · rintro ⟨hp, hall⟩
    exact ⟨fun p hmem => ⟨hall p hmem, (bandOf_bandCode (h p hmem)).2⟩, hp⟩

/-- The block passes exactly where every field of the table passes (R145, R177). -/
theorem configFailure_configBlock {c : Setup} (hc : SetupFits c) {pos : Option DayPosition}
    (hpos : ∀ p, pos = some p → p.id.day < 65536 ∧ p.id.iod < 65536 ∧ p.elapsed < 2 ^ 32)
    (opening : Option Totals) (retained : Option Nat) :
    configFailure (configBlock c pos opening) retained = none ↔
      c.station ≤ 15 ∧ 1 ≤ c.group ∧ (c.phase1 = true ∨ c.phase2 = true ∨ c.phase3 = true)
        ∧ (16384 ≤ c.gain1 ∧ c.gain1 ≤ 49151) ∧ (16384 ≤ c.gain2 ∧ c.gain2 ≤ 49151)
        ∧ (16384 ≤ c.gain3 ∧ c.gain3 ≤ 49151)
        ∧ 2 ^ 24 ≤ c.quantum ∧ (∀ q, retained = some q → c.quantum = q)
        ∧ c.lengthCode ≤ 5
        ∧ c.calendar.Pairwise (fun a b => a.iod < b.iod)
        ∧ (∀ p ∈ c.calendar, p.iod < perDay c.lengthCode)
        ∧ c.baseCap ≤ c.ceilingCap
        ∧ (10 ≤ c.holdOffLength ∧ c.holdOffLength ≤ 1000)
        ∧ (50 ≤ c.restoreCount ∧ c.restoreCount ≤ 30000)
        ∧ (c.enableL = true ∨ c.enableH = true) ∧ 1 ≤ c.presence
        ∧ (∀ p, pos = some p → p.id.iod < perDay c.lengthCode ∧ p.elapsed < nominalLength c.lengthCode) := by
  obtain ⟨f0, f1, f2, f3, f5, f7, f9, f10, f15, f16⟩ := configBlock_headFields hc pos opening
  obtain ⟨f41, f46, f51, f53, f55, f56, f57, f58, f60, f62, _⟩ := configBlock_middleFields hc hpos opening
  have hcal := configBlock_calendar pos opening hc.calendar fun p hp => (hc.points p hp).1
  have hpasses := calendarPasses_block (cal := c.calendar) (perDay c.lengthCode)
    fun p hp => (hc.points p hp).2
  have hphases : (1 ≤ flagCode c.phase1 + 2 * flagCode c.phase2 + 4 * flagCode c.phase3
      ∧ flagCode c.phase1 + 2 * flagCode c.phase2 + 4 * flagCode c.phase3 ≤ 7)
        ↔ (c.phase1 = true ∨ c.phase2 = true ∨ c.phase3 = true) := by
    cases c.phase1 <;> cases c.phase2 <;> cases c.phase3 <;> decide
  have hmode : (if c.mode = .phaseSum then 0 else 1) ≤ 1 := by split <;> decide
  have hq : c.quantum ≤ 2 ^ 40 - 1 := by have := hc.quantum; omega
  have hchannels : (flagCode c.enableL + 2 * flagCode c.enableH) % 4 ≠ 0
      ↔ (c.enableL = true ∨ c.enableH = true) := by
    cases c.enableL <;> cases c.enableH <;> decide
  have hposition : (flagCode pos.isSome = 0 ∨ (flagCode pos.isSome = 1
        ∧ (pos.getD noPosition).id.iod < perDay c.lengthCode)
        ∧ (pos.getD noPosition).elapsed < nominalLength c.lengthCode)
      ↔ ∀ p, pos = some p → p.id.iod < perDay c.lengthCode ∧ p.elapsed < nominalLength c.lengthCode := by
    cases pos <;> simp [flagCode]
  rw [configFailure_none_iff]
  cases retained <;>
    simp only [configChecks, List.forall_mem_cons, f0, f1, f2, f3, f5, f7, f9, f10, f15, f16, f41, f46,
      f51, f53, f55, f56, f57, f60, f62, hcal, Bool.and_eq_true, Bool.or_eq_true, decide_eq_true_eq,
      hphases, hchannels, hpasses, hposition, hmode, hq, hc.calendar] <;>
    simp [and_assoc]

end Sys2Proof.Machine
end

section
namespace Sys2Proof.Machine

theorem holdIfWarned_of_inactive {s : State} (h : s.supply.pfw = false) : holdIfWarned s = s :=
  if_neg (by simp [h])

theorem holdIfWarned_of_active {s : State} (h : s.supply.pfw = true) : holdIfWarned s = enterHold true s :=
  if_pos h

/-- Settles O53. -/
theorem loadConfigAccepted : Obligations.LoadConfigAccepted := by
  refine ⟨?_, ?_⟩
  · intro s block hc hop hserve hlen valid hpass c opening run id elapsed enabled result accepted
    have haccepted : configAccepted block s = accepted := by
      unfold configAccepted leaveStart
      split <;> (rename_i hp; simp only [accepted, elapsed, id, run, hp]; rfl)
    have hexec := exec_loadConfig_accepted hc hop hserve hlen hpass
    rw [haccepted] at hexec
    refine ⟨fun hpfw => ?_, fun hpfw hblock hheld => ?_⟩
    · rw [hexec, holdIfWarned_of_inactive (s := accepted) hpfw]
    · obtain ⟨hn, he, hb, hhold, hreset⟩ := configAccepted_begins (s := s) hpass
      rw [haccepted] at hn he hb hhold hreset
      have hfresh := nothingDue_of_fresh (hb.trans hblock) hn he
      refine ⟨enterHold true accepted, exec_holdEntry_of_fresh hfresh (hreset.trans hheld) hhold, ?_⟩
      rw [hexec, holdIfWarned_of_active (s := accepted) hpfw]
  · intro c pos opening w hstation hgroup hgain1 hgain2 hgain3 hquantum hcode hcal hpoints hbase hceil
      hhold hrest hpres hw hcreep hpos ht block d length
    have hfits : SetupFits { c with window := w } :=
      ⟨hstation, hgroup, hgain1, hgain2, hgain3, hquantum, hcode, hcal, hpoints, hbase, hceil, hhold, hrest,
        hpres, hw, hcreep⟩
    exact ⟨configBlock_length _ pos opening, configSetup_configBlock hfits hpos opening,
      configDayPosition_configBlock hfits hpos opening, configOpening_configBlock hfits hpos ht,
      fun retained => configFailure_configBlock hfits hpos opening retained⟩

end Sys2Proof.Machine
end

section
/-! SUPPORT. What a step can do to measurement: a property of the configuration, the Supply Monitor, the
Sample Port, the Netting Engine and the Register Bank that their named operations keep is kept by every step. -/

namespace Sys2Proof.Machine

/-- A property of measurement, read off the part. -/
def MeterHas (p : Option Setup → Supply → SamplePort → NettingEngine → RegisterBank → Prop)
    (s : State) : Prop :=
  p s.config s.supply s.sp s.ne s.rb

/-- The operations on measurement, each keeping a property `p` of it. -/
structure MeterClosed (p : Option Setup → Supply → SamplePort → NettingEngine → RegisterBank → Prop) :
    Prop where
  close : ∀ c v q n b, p (some c) v q n b →
    p (some c) v q (closeNetting c n)
      (bankQuanta (quantaOf c.quantum n.residueImport (acceptFigure c.creep n.accImport))
        (quantaOf c.quantum n.residueExport (acceptFigure c.creep n.accExport)) b)
  clear : ∀ k v q n b, p k v q n b →
    p k v q { n with heldSeen := false, faultSeen := false }
      { b with impQuanta := 0, expQuanta := 0, saturated := false }
  band : ∀ k v q n b x, p k v q n b → p k v q n { b with band := x }
  missing : ∀ c v q n b, p (some c) v q n b → q.state ≠ .idle → (opLive v.op = true → n.blockSets < 64) →
    p (some c) v (missSet q) (netSet c.mode (missingProducts q) (flagMissing q n)) b
  expiry : ∀ k v q n b, p k v q n b → q.state ≠ .idle → p k v (afterExpiry q) n b
  received : ∀ c v q n b e bytes, p (some c) v q n b → q.state ≠ .idle →
    (opLive v.op = true → n.blockSets < 64) →
    p (some c) v
      { state := .running, expected := e, missing := 0
        lastGood := formProducts c (sampleValues bytes), watchdog := some 3840 }
      (netSet c.mode (formProducts c (sampleValues bytes)) n) b
  live : ∀ k v q n b op, p k v q n b → opLive v.op = true → opLive op = true →
    p k { v with op := op } q n b
  hold : ∀ k v q n b r w t, p k v q n b → (k ≠ none → opLive v.op = true → n.blockSets = 0) →
    p k { v with op := .hold, ret := r, pfw := w, release := t } SamplePort.reset n b
  warn : ∀ k v q n b w t, p k v q n b → p k { v with pfw := w, release := t } q n b
  unhold : ∀ k v q n b, p k v q n b → v.op = .hold → p k { v with op := .start, release := none } q n b
  wake : ∀ c v q n b op, p (some c) v q n b → opLive v.op = false → opLive op = true →
    p (some c) { v with op := op } (leaveIdle q) n b
  accept : ∀ k v q n b block, p k v q n b → v.op = .start →
    configFailure block (if v.retentionValid then v.retainedQ else none) = none →
    p (some (configSetup block))
      { v with retentionValid := true, retainedQ := some (configSetup block).quantum } q
      (acceptNetting v.retentionValid n)
      { b with totals := acceptTotals v.retentionValid (configOpening block) b.totals }
  powerOn : ∀ v, opLive v.op = false → v.retentionValid = false →
    p none v SamplePort.reset NettingEngine.reset RegisterBank.reset
  reset : ∀ k v q n b v', p k v q n b → opLive v'.op = false → v'.retentionValid = v.retentionValid →
    v'.retainedQ = v.retainedQ →
    p none v' SamplePort.reset
      { NettingEngine.reset with residueImport := n.residueImport, residueExport := n.residueExport }
      { RegisterBank.reset with totals := b.totals }

/-! ## What the shared operations write -/

theorem earlyClose_ne (c : Setup) (k : EarlyCause) (s : State) :
    (earlyClose c k s).ne
      = { (closeOpenBlock c (k != .hold) s).ne with heldSeen := false, faultSeen := false } := by
  simp [earlyClose, clearInterval]

theorem earlyClose_rb (c : Setup) (k : EarlyCause) (s : State) :
    (earlyClose c k s).rb
      = { (closeOpenBlock c (k != .hold) s).rb with impQuanta := 0, expQuanta := 0, saturated := false } := by
  simp [earlyClose, clearInterval]

/-- A HOLD entry from RUN or RESYNC leaves no block open (R21, R150). -/
theorem holdClose_blockSets {s : State} (hc : s.config ≠ none) (hl : isLive s = true) :
    (holdClose s).ne.blockSets = 0 := by
  obtain ⟨c, hc⟩ := Option.ne_none_iff_exists'.mp hc
  simp only [holdClose, hc, hl, if_true, earlyClose_ne, closeOpenBlock_blockSets]

theorem takeAllDue_ne (c : Setup) (s : State) : (takeAllDue c s).ne = (takeDue s).ne := by
  simp [takeAllDue]

theorem takeAllDue_rb (c : Setup) (s : State) : (takeAllDue c s).rb = (takeDue s).rb := by
  simp [takeAllDue]

/-- A set finds room in the open block (R19). -/
theorem takeAllDue_room {c : Setup} {s : State} (hc : s.config = some c) (hl : isLive s = true) :
    (takeAllDue c s).ne.blockSets < 64 := by
  have hn := nothingDue_takeDue s
  rw [nothingDue_iff, takeDue_config, hc] at hn
  have hb : blockDue (takeDue s) = false := (hn.resolve_left (by simp)).1
  rw [takeAllDue_ne]
  by_contra hge
  have hdue : blockDue (takeDue s) = true :=
    (blockDue_iff _).mpr ⟨by simpa using hl, .inl (by omega)⟩
  simp [hb] at hdue

section Meter

variable {p : Option Setup → Supply → SamplePort → NettingEngine → RegisterBank → Prop}
  (hp : MeterClosed p)

include hp

theorem meter_closeBlock {c : Setup} {j : Bool} {s : State} (hc : s.config = some c)
    (h : MeterHas p s) : MeterHas p (closeBlock c j s) := by
  show p s.config s.supply s.sp (closeNetting c s.ne) (bankQuanta _ _ s.rb)
  unfold MeterHas at h
  rw [hc] at h ⊢
  exact hp.close _ _ _ _ _ h

theorem meter_takeDueBlock {c : Setup} {s : State} (hc : s.config = some c) (h : MeterHas p s) :
    MeterHas p (takeDueBlock c s) := by
  unfold takeDueBlock
  split
  · exact meter_closeBlock hp hc h
  · exact h

theorem meter_closeOpenBlock {c : Setup} {j : Bool} {s : State} (hc : s.config = some c)
    (h : MeterHas p s) : MeterHas p (closeOpenBlock c j s) := by
  unfold closeOpenBlock
  split
  · exact h
  · exact meter_closeBlock hp hc h

theorem meter_clearInterval {s : State} (h : MeterHas p s) : MeterHas p (clearInterval s) :=
  hp.clear _ _ _ _ _ h

theorem meter_beginInterval {c : Setup} {id : IntervalId} {e : Nat} {b : Band} {s : State}
    (h : MeterHas p s) : MeterHas p (beginInterval c id e b s) :=
  hp.band _ _ _ _ _ b h

theorem meter_earlyClose {c : Setup} {k : EarlyCause} {s : State} (hc : s.config = some c)
    (h : MeterHas p s) : MeterHas p (earlyClose c k s) := by
  have hb := meter_clearInterval hp (meter_closeOpenBlock hp (j := k != .hold) hc h)
  simpa [MeterHas, earlyClose_ne, earlyClose_rb, clearInterval] using hb

theorem meter_countBoundary {c : Setup} {s : State} (h : MeterHas p s) :
    MeterHas p (countBoundary c s) := by
  have hb := meter_beginInterval hp (c := c) (id := s.it.id) (e := 0)
    (b := bandFor c.calendar (succId (perDay c.lengthCode) s.it.id).iod) (meter_clearInterval hp h)
  simpa [MeterHas, countBoundary, beginInterval, clearInterval] using hb

theorem meter_unalignedClose {c : Setup} {s : State} (h : MeterHas p s) :
    MeterHas p (unalignedClose c s) := by
  have hb := meter_beginInterval hp (c := c) (id := s.it.id) (e := 0) (b := .unbanded)
    (meter_clearInterval hp h)
  simpa [MeterHas, unalignedClose, beginInterval, clearInterval] using hb

theorem meter_takeDue {s : State} (h : MeterHas p s) : MeterHas p (takeDue s) := by
  unfold takeDue
  split
  · exact h
  · rename_i c hc
    have hb := meter_takeDueBlock hp hc h
    unfold takeDueBoundary
    (repeat' split)
    · exact meter_countBoundary hp hb
    · exact meter_unalignedClose hp hb
    · exact hb

theorem meter_takeAllDue {c : Setup} {s : State} (h : MeterHas p s) : MeterHas p (takeAllDue c s) := by
  simpa [MeterHas, takeAllDue_ne, takeAllDue_rb] using meter_takeDue hp h

theorem meter_missingSet {c : Setup} {s : State} (hc : s.config = some c) (hidle : s.sp.state ≠ .idle)
    (h : MeterHas p s) : MeterHas p (missingSet c s) := by
  have hd := meter_takeAllDue hp (c := c) h
  have hroom := takeAllDue_room (s := s) hc
  unfold MeterHas at hd ⊢
  rw [takeAllDue_config, takeAllDue_supply, takeAllDue_sp, hc] at hd
  have := hp.missing _ _ _ _ _ hd hidle hroom
  simpa [missingSet, countSet, hc] using this

theorem meter_missingSets {c : Setup} (k : Nat) {s : State} (hc : s.config = some c)
    (hidle : s.sp.state ≠ .idle) (h : MeterHas p s) :
    MeterHas p (missingSets c k s) ∧ (missingSets c k s).sp.state ≠ .idle := by
  induction k generalizing s with
  | zero => exact ⟨h, hidle⟩
  | succ k ih =>
    exact ih (by simpa using hc) (by simpa using missSet_not_idle hidle) (meter_missingSet hp hc hidle h)

theorem meter_receivedSet {c : Setup} {q : BitVec 8} {bytes : List Byte} {s : State}
    (hc : s.config = some c) (hidle : s.sp.state ≠ .idle) (h : MeterHas p s) :
    MeterHas p (receivedSet c q (sampleValues bytes) s) := by
  have hd := meter_takeAllDue hp (c := c) h
  have hroom := takeAllDue_room (s := s) hc
  unfold MeterHas at hd ⊢
  rw [takeAllDue_config, takeAllDue_supply, takeAllDue_sp, hc] at hd
  have := hp.received _ _ _ _ _ (some (q + 1)) bytes hd hidle hroom
  simpa [receivedSet, countSet, hc] using this

theorem meter_takeFrame {c : Setup} {bytes : List Byte} {s : State} (hc : s.config = some c)
    (hidle : s.sp.state ≠ .idle) (h : MeterHas p s) : MeterHas p (takeFrame c bytes s) := by
  unfold takeFrame
  dsimp only
  split
  · exact meter_receivedSet hp hc hidle h
  · split
    · rename_i e _ _
      obtain ⟨hm, hidle'⟩ := meter_missingSets hp (sampleSequence bytes - e).toNat hc hidle h
      exact meter_receivedSet hp (by simpa using hc) hidle' hm
    · exact h

theorem meter_enterHold {w : Bool} {s : State} (h : MeterHas p s) : MeterHas p (enterHold w s) := by
  have h1 : MeterHas p (holdClose s) := by
    unfold holdClose
    split
    · exact h
    · rename_i c hc
      split
      · exact meter_earlyClose hp hc h
      · exact h
  refine hp.hold _ _ _ _ _ _ _ _ h1 fun hc hl => holdClose_blockSets ?_ ?_
  · simpa using hc
  · simpa [isLive] using hl

theorem meter_holdIfWarned {s : State} (h : MeterHas p s) : MeterHas p (holdIfWarned s) := by
  unfold holdIfWarned
  split
  · exact meter_enterHold hp h
  · exact h

/-- RUN entered from RUN or RESYNC. -/
theorem meter_enterRun {c : Setup} {id : IntervalId} {e : Nat} {s : State} (hl : isLive s = true)
    (h : MeterHas p s) : MeterHas p (enterRun c id e s) :=
  hp.band _ _ _ _ _ _ (hp.live _ _ _ _ _ .run h hl rfl)

theorem meter_enterResync {c : Setup} {id : IntervalId} {s : State} (hl : isLive s = true)
    (h : MeterHas p s) : MeterHas p (enterResync c id s) :=
  hp.band _ _ _ _ _ _ (hp.live _ _ _ _ _ .resync h hl rfl)

/-- RUN or RESYNC entered from START or HOLD. -/
theorem meter_wakeRun {c : Setup} {id : IntervalId} {e : Nat} {s : State} (hc : s.config = some c)
    (hl : isLive s = false) (h : MeterHas p s) : MeterHas p (enterRun c id e (wakeBlocks s)) := by
  unfold MeterHas at h
  rw [hc] at h
  have := hp.band _ _ _ _ _ (bandFor c.calendar id.iod) (hp.wake _ _ _ _ _ .run h hl rfl)
  rw [← hc] at this
  exact this

theorem meter_wakeResync {c : Setup} {id : IntervalId} {s : State} (hc : s.config = some c)
    (hl : isLive s = false) (h : MeterHas p s) : MeterHas p (enterResync c id (wakeBlocks s)) := by
  unfold MeterHas at h
  rw [hc] at h
  have := hp.band _ _ _ _ _ .unbanded (hp.wake _ _ _ _ _ .resync h hl rfl)
  rw [← hc] at this
  exact this

theorem meter_leaveHold {s : State} (hop : s.supply.op = .hold) (h : MeterHas p s) :
    MeterHas p (leaveHold s) := by
  have hend : MeterHas p (endHold s) := hp.unhold _ _ _ _ _ h hop
  unfold leaveHold
  split
  · rename_i c _ hc
    exact meter_wakeResync hp hc rfl hend
  · exact hend

theorem meter_passOn {c : Setup} {ch : Channel} {f : GroupFrame} {s : State} (hc : s.config = some c)
    (h : MeterHas p s) : MeterHas p (passOn c ch f s) := by
  unfold passOn
  split
  · exact h
  · rename_i hop
    unfold offerTiming
    split
    · exact h
    · split
      · exact h
      · rename_i id elapsed _
        have hl : isLive (earlyClose c .adoption s) = true := by
          rw [earlyClose_isLive]
          exact (isLive_iff s).mpr (.inr hop)
        have hrun : ∀ id e, MeterHas p (enterRun c id e (earlyClose c .adoption s)) :=
          fun _ _ => meter_enterRun hp hl (meter_earlyClose hp hc h)
        exact hrun id (limitElapsed c elapsed)
  · exact h
  · exact h

theorem meter_judgeFrame {c : Setup} {ch : Channel} {bytes : List Byte} {s : State}
    (hc : s.config = some c) (h : MeterHas p s) : MeterHas p (judgeFrame c ch bytes s) := by
  unfold judgeFrame
  split
  · exact h
  · exact h
  · exact h
  · exact h
  · exact h
  · exact meter_passOn hp hc h

theorem meter_configAccepted {block : List Byte} {s : State} (hop : s.supply.op = .start)
    (hpass : configFailure block (checkedQ s) = none) (h : MeterHas p s) :
    MeterHas p (configAccepted block s) := by
  have ha : MeterHas p (acceptConfig (configSetup block) (configOpening block) s) :=
    hp.accept _ _ _ _ _ block h hop hpass
  have hl : isLive (acceptConfig (configSetup block) (configOpening block) s) = false := by
    simp [isLive, acceptConfig, hop, opLive]
  unfold configAccepted leaveStart
  split
  · exact meter_wakeRun hp rfl hl ha
  · exact meter_wakeResync hp rfl hl ha

theorem meter_presetPosition {c : Setup} {id : IntervalId} {e : Nat} {s : State}
    (hc : s.config = some c) (hl : isLive s = true) (h : MeterHas p s) :
    MeterHas p (presetPosition c id e s) := by
  have he := meter_earlyClose hp (k := .setDay) hc h
  unfold presetPosition
  dsimp only
  split
  · exact meter_beginInterval hp he
  · exact meter_enterRun hp (by simpa using hl) he

theorem meter_resyncFromRun {c : Setup} {s : State} (hc : s.config = some c) (hl : isLive s = true)
    (h : MeterHas p s) : MeterHas p (resyncFromRun c s) := by
  have he := meter_earlyClose hp (k := .resync) hc h
  have hl' : isLive (earlyClose c .resync s) = true := by rwa [earlyClose_isLive]
  have hrun : ∀ l u e, MeterHas p (enterResync c (succId (perDay c.lengthCode) s.it.id)
      { earlyClose c .resync s with su := u, el := e, line := l }) :=
    fun _ _ _ => meter_enterResync hp hl' he
  exact hrun _ _ _

/-- A reset leaves measurement its values after that reset, in START or HOLD (R143, R158). -/
theorem meter_powerOnReset (r : ResetPhase) (s : State) : MeterHas p (resetPhase r (clearedPart s)) := by
  cases r with
  | held => exact hp.powerOn _ rfl rfl
  | ended pfw _ => cases pfw <;> exact hp.powerOn _ rfl rfl

theorem meter_resetPart (r : ResetPhase) {s : State} (h : MeterHas p s) : MeterHas p (resetPart r s) := by
  cases r with
  | held => exact hp.reset _ _ _ _ _ _ h rfl rfl rfl
  | ended pfw _ => cases pfw <;> exact hp.reset _ _ _ _ _ _ h rfl rfl rfl

/-- Every step keeps a property of measurement that its operations keep. -/
theorem meter_kept : KeptByStep (MeterHas p) := by
  refine kept_of_after (fun _ _ h => h) ?_
  intro i s h
  have hd : MeterHas p (takeDue s) := meter_takeDue hp h
  have hserved : ∀ f, MeterHas p (f (takeDue s)) → MeterHas p (served f (takeDue s)) :=
    fun f => served_cases hd
  cases i <;> simp only [after]
  all_goals first
    | simpa [MeterHas] using hd
    | simpa [MeterHas] using h
    | skip
  case sampleSetFrame bytes n b =>
    unfold sampleArrives
    split
    · exact hd
    · rename_i c hc
      split
      · exact hd
      · rename_i hna
        refine meter_takeFrame hp hc (fun hidle => hna ?_) hd
        rw [noArrival, hidle]
        rfl
  case watchdogExpiry =>
    unfold watchdogExpires
    split
    · exact hd
    · rename_i c hc
      split
      · rename_i hw
        have hidle : (takeDue s).sp.state ≠ .idle := by
          simp only [Bool.and_eq_true, bne_iff_ne] at hw
          exact hw.1
        refine hp.expiry _ _ _ _ _ (meter_missingSet hp hc hidle hd) ?_
        rw [missingSet_sp]
        exact missSet_not_idle hidle
      · exact hd
  case blockClose =>
    unfold blockCloses
    split
    · exact h
    · exact meter_takeDueBlock hp ‹_› h
  case countCompleteBoundary =>
    split
    · exact h
    · split
      · exact meter_countBoundary hp (meter_takeDueBlock hp ‹_› h)
      · exact h
  case unalignedBoundary =>
    split
    · exact h
    · split
      · exact meter_unalignedClose hp (meter_takeDueBlock hp ‹_› h)
      · exact h
  case windowClose =>
    split
    · exact h
    · simpa [MeterHas] using h
  case completeFrame ch bytes =>
    unfold frameCompletes
    split
    · exact hd
    · rename_i c hc
      (repeat' split)
      · simpa [MeterHas] using hd
      · exact meter_judgeFrame hp (s := setRecv ch .ready (takeDue s)) hc hd
      · exact hd
      · exact hd
  case holdEntry =>
    refine unlessHeld_cases hd ?_
    unfold pfwActive
    split
    · exact hd
    · exact meter_enterHold hp hd
  case pfwInactive =>
    split
    · exact hp.warn _ _ _ _ _ _ _ h
    · exact h
  case releaseTimer =>
    split
    · rename_i hop
      exact meter_holdIfWarned hp (meter_leaveHold hp hop.1 h)
    · exact h
  case powerOnReset r => exact meter_powerOnReset hp r s
  case resetn r => exact meter_resetPart hp r hd
  case loadConfig block =>
    split
    · exact h
    · refine hserved _ ?_
      unfold loadConfigActs
      dsimp only
      split
      · rename_i hop
        split
        · exact hd
        · rename_i hpass
          exact meter_holdIfWarned hp (meter_configAccepted hp hop hpass hd)
      · exact hd
  case setDayPosition =>
    refine hserved _ ?_
    unfold setDayPositionActs
    dsimp only
    split
    · exact hd
    · rename_i c hc
      split
      · exact hd
      · rename_i hl
        split
        · exact hd
        · exact meter_presetPosition hp hc (by simpa using hl) hd
  case resync =>
    refine hserved _ ?_
    unfold resyncActs
    split
    · exact hd
    · rename_i c hc
      split
      · rename_i hop
        exact meter_resyncFromRun hp hc ((isLive_iff _).mpr (.inl hop)) hd
      · exact hd
  case pfwActiveInHold =>
    split
    · exact hp.warn _ _ _ _ _ _ _ h
    · exact h
  case discardedTransaction csn => cases csn <;> simpa [MeterHas] using h

end Meter

end Sys2Proof.Machine
end

section
namespace Sys2Proof.Machine

/-! ## Energy figures -/

/-- The figures of R23, R24, R48 and R50 in their ranges, and the Q in force the retained one. -/
def EnergyFits (k : Option Setup) (v : Supply) (_ : SamplePort) (n : NettingEngine) (b : RegisterBank) :
    Prop :=
  ((∀ c, k = some c → v.retentionValid = true ∧ v.retainedQ = some c.quantum)
    ∧ (v.retentionValid = true →
        ∃ q, v.retainedQ = some q ∧ n.residueImport < q ∧ n.residueExport < q))
  ∧ b.impQuanta ≤ 2 ^ 31 - 1 ∧ b.expQuanta ≤ 2 ^ 31 - 1
  ∧ ∀ x, (totalsOf b.totals x).imp < 2 ^ 40 ∧ (totalsOf b.totals x).exp < 2 ^ 40

/-- The bank after a block: limited counters, wrapped totals (R48, R50). -/
theorem bankQuanta_range {b : RegisterBank} (qi qe : Nat)
    (h : ∀ x, (totalsOf b.totals x).imp < 2 ^ 40 ∧ (totalsOf b.totals x).exp < 2 ^ 40) :
    (bankQuanta qi qe b).impQuanta ≤ 2 ^ 31 - 1 ∧ (bankQuanta qi qe b).expQuanta ≤ 2 ^ 31 - 1
      ∧ ∀ x, (totalsOf (bankQuanta qi qe b).totals x).imp < 2 ^ 40
          ∧ (totalsOf (bankQuanta qi qe b).totals x).exp < 2 ^ 40 := by
  refine ⟨Nat.min_le_left _ _, Nat.min_le_left _ _, fun x => ?_⟩
  simp only [bankQuanta]
  by_cases hx : x = b.band
  · rw [hx, totalsOf_setTotals_same]
    exact ⟨Nat.mod_lt _ (by decide), Nat.mod_lt _ (by decide)⟩
  · rw [totalsOf_setTotals_other _ _ hx]
    exact h x

/-- A block that passes carries a Q of at least 2^24, the retained one where one is retained (R145,
index 8). -/
theorem passed_quantum {b : List Byte} {q : Option Nat} (h : configFailure b q = none) :
    2 ^ 24 ≤ (configSetup b).quantum ∧ ∀ kept, q = some kept → (configSetup b).quantum = kept := by
  have hall := (configFailure_none_iff b q).mp h
  cases q with
  | none =>
    have h8 := hall (8, decide (2 ^ 24 ≤ fieldAt b 10 5) && decide (fieldAt b 10 5 ≤ 2 ^ 40 - 1) && true)
      (by simp [configChecks])
    simp only [Bool.and_eq_true, decide_eq_true_eq] at h8
    exact ⟨h8.1.1, fun kept hk => by cases hk⟩
  | some kept =>
    have h8 := hall (8, decide (2 ^ 24 ≤ fieldAt b 10 5) && decide (fieldAt b 10 5 ≤ 2 ^ 40 - 1)
      && fieldAt b 10 5 == kept) (by simp [configChecks])
    simp only [Bool.and_eq_true, decide_eq_true_eq, beq_iff_eq] at h8
    exact ⟨h8.1.1, fun _ hk => h8.2.trans (Option.some.inj hk)⟩

/-- Opening totals of five bytes each lie below 2^40 (R177). -/
theorem configOpening_range {b : List Byte} {t : Totals} (h : configOpening b = some t) (x : Band) :
    (totalsOf t x).imp < 2 ^ 40 ∧ (totalsOf t x).exp < 2 ^ 40 := by
  have hf : ∀ off, fieldAt b off 5 < 2 ^ 40 := fun off => fieldAt_lt b off 5
  unfold configOpening at h
  split at h
  · cases h
  · obtain rfl := Option.some.inj h
    cases x <;> exact ⟨hf _, hf _⟩

theorem energyFits_closed : MeterClosed EnergyFits where
  close c v q n b h := by
    obtain ⟨⟨hk, hr⟩, _, _, ht⟩ := h
    obtain ⟨hv, hq⟩ := hk c rfl
    obtain ⟨q', hq', hi, _⟩ := hr hv
    obtain rfl : c.quantum = q' := Option.some.inj (hq.symm.trans hq')
    have hpos : 0 < c.quantum := by omega
    exact ⟨⟨hk, fun _ => ⟨c.quantum, hq, Nat.mod_lt _ hpos, Nat.mod_lt _ hpos⟩⟩, bankQuanta_range _ _ ht⟩
  clear k v q n b h := ⟨h.1, Nat.zero_le _, Nat.zero_le _, h.2.2.2⟩
  band k v q n b x h := h
  missing c v q n b h _ _ := by
    have hres : (flagMissing q n).residueImport = n.residueImport
        ∧ (flagMissing q n).residueExport = n.residueExport := by
      unfold flagMissing
      split <;> exact ⟨rfl, rfl⟩
    simp only [EnergyFits, netSet, hres]
    exact h
  expiry k v q n b h _ := h
  received c v q n b e bytes h _ _ := h
  live k v q n b op h _ _ := h
  hold k v q n b r w t h _ := h
  warn k v q n b w t h := h
  unhold k v q n b h _ := h
  wake c v q n b op h _ _ := h
  accept k v q n b block h _ hpass := by
    obtain ⟨⟨_, hr⟩, hi, he, ht⟩ := h
    obtain ⟨hlo, hkept⟩ := passed_quantum hpass
    refine ⟨⟨fun c hc => ?_, fun _ => ⟨_, rfl, ?_⟩⟩, hi, he, fun x => ?_⟩
    · obtain rfl := Option.some.inj hc
      exact ⟨rfl, rfl⟩
    · cases hv : v.retentionValid with
      | false =>
        have hpos : 0 < (configSetup block).quantum := by omega
        exact ⟨hpos, hpos⟩
      | true =>
        obtain ⟨q', hq', hin, hex⟩ := hr hv
        have hq : (configSetup block).quantum = q' := hkept q' (by simp [hv, hq'])
        rw [hq]
        exact ⟨hin, hex⟩
    · unfold acceptTotals
      split
      · exact ht x
      · cases ho : configOpening block with
        | none => exact ht x
        | some t => exact configOpening_range ho x
  powerOn v _ hv := by
    refine ⟨⟨fun c hc => (by cases hc), fun h => ?_⟩, Nat.zero_le _, Nat.zero_le _, fun x => by cases x <;> decide⟩
    rw [hv] at h
    cases h
  reset k v q n b v' h _ hvalid hq := by
    obtain ⟨⟨_, hr⟩, _, _, ht⟩ := h
    refine ⟨⟨fun c hc => (by cases hc), fun hv => ?_⟩, Nat.zero_le _, Nat.zero_le _, ht⟩
    rw [hq]
    exact hr (hvalid ▸ hv)

/-- Settles O13: the operations of measurement keep the figures in range. -/
theorem energyFiguresStayInRange : Obligations.EnergyFiguresStayInRange :=
  meter_kept energyFits_closed

/-! ## Products in range -/

/-- The three products of a set lie in the range of R15. -/
def ProductsInRange (p : Products) : Prop :=
  InProductRange p.p1 ∧ InProductRange p.p2 ∧ InProductRange p.p3

theorem productsInRange_zero : ProductsInRange ⟨0, 0, 0⟩ := by
  refine ⟨?_, ?_, ?_⟩ <;> exact ⟨by decide, by decide⟩

/-- A sample of at most two bytes is a signed 16-bit value (R175). -/
theorem sample_range (bytes : List Byte) (off : Nat) :
    -32768 ≤ signedOf (bytesAt bytes off 2) ∧ signedOf (bytesAt bytes off 2) ≤ 32767 := by
  have hlen : (bytesAt bytes off 2).length ≤ 2 := by simp [bytesAt]
  have hpow : 256 ^ (bytesAt bytes off 2).length ≤ 256 ^ 2 := Nat.pow_le_pow_right (by decide) hlen
  obtain ⟨hlo, hhi⟩ := signedOf_range (bytesAt bytes off 2)
  generalize 256 ^ (bytesAt bytes off 2).length = m at *
  omega

/-- The products of a frame's samples lie in range where the gains do (R15). -/
theorem formProducts_range {c : Setup} (h1 : c.gain1 ≤ 49151) (h2 : c.gain2 ≤ 49151)
    (h3 : c.gain3 ≤ 49151) (bytes : List Byte) :
    ProductsInRange (formProducts c (sampleValues bytes)) := by
  obtain ⟨hz1, _⟩ := productsInRange_zero
  refine ⟨?_, ?_, ?_⟩ <;> simp only [formProducts, sampleValues] <;> split
  · exact calibrated_range (sample_range _ _) (sample_range _ _) h1
  · exact hz1
  · exact calibrated_range (sample_range _ _) (sample_range _ _) h2
  · exact hz1
  · exact calibrated_range (sample_range _ _) (sample_range _ _) h3
  · exact hz1

/-- What a set adds to an accumulator is at most the bound of R17. -/
theorem setImport_le (m : NettingMode) {p : Products} (h : ProductsInRange p) :
    setImport m p ≤ setBound ∧ setExport m p ≤ setBound := by
  obtain ⟨⟨_, h1⟩, ⟨_, h2⟩, ⟨_, h3⟩⟩ := h
  cases m <;> simp only [setImport, setExport, setBound] <;> omega

end Sys2Proof.Machine
end

section
namespace Sys2Proof.Machine

/-! ## The Sample Port and the open block -/

/-- The Sample Port in step with the operating state, and the open block and the last good products in
their ranges (R3, R14, R15, R17, R19, R144). -/
def SamplingFits (k : Option Setup) (v : Supply) (q : SamplePort) (n : NettingEngine)
    (_ : RegisterBank) : Prop :=
  (q.state = .idle ↔ opLive v.op = false) ∧ (opLive v.op = false → q.watchdog = none)
    ∧ (opLive v.op = true → k ≠ none)
    ∧ (∀ c, k = some c → c.gain1 ≤ 49151 ∧ c.gain2 ≤ 49151 ∧ c.gain3 ≤ 49151)
    ∧ (opLive v.op = false → n.blockSets = 0) ∧ n.blockSets ≤ 64
    ∧ n.accImport ≤ n.blockSets * setBound ∧ n.accExport ≤ n.blockSets * setBound
    ∧ ProductsInRange q.lastGood

/-- The laws of the Sample Port, the operating state and the block are `SamplingFits` and a quiet line. -/
theorem samplingLaws_iff (s : State) :
    (QuietLaw s ∧ ConfiguredLaw s ∧ BlockLaw s) ↔ MeterHas SamplingFits s ∧ LineQuiet s := by
  unfold QuietLaw ConfiguredLaw BlockLaw MeterHas SamplingFits ProductsInRange isLive
  constructor
  · rintro ⟨⟨hidle, hwd, hq⟩, hconf, hg, hz, h64, _, _, hi, he, hp1, hp2, hp3⟩
    exact ⟨⟨hidle, hwd, hconf, hg, hz, h64, hi, he, hp1, hp2, hp3⟩, hq⟩
  · rintro ⟨⟨hidle, hwd, hconf, hg, hz, h64, hi, he, hp1, hp2, hp3⟩, hq⟩
    refine ⟨⟨hidle, hwd, hq⟩, hconf, hg, hz, h64, ?_, hconf, hi, he, hp1, hp2, hp3⟩
    rw [ne_eq, hidle, Bool.not_eq_false]

/-- A set netted into a block with room keeps the block's bounds (R17, R19). -/
theorem netSet_range {m : NettingMode} {p : Products} {n : NettingEngine} (hp : ProductsInRange p)
    (hroom : n.blockSets < 64) (hi : n.accImport ≤ n.blockSets * setBound)
    (he : n.accExport ≤ n.blockSets * setBound) :
    (netSet m p n).blockSets ≤ 64
      ∧ (netSet m p n).accImport ≤ (netSet m p n).blockSets * setBound
      ∧ (netSet m p n).accExport ≤ (netSet m p n).blockSets * setBound := by
  obtain ⟨himp, hexp⟩ := setImport_le m hp
  simp only [netSet, Nat.add_mul, Nat.one_mul]
  exact ⟨hroom, Nat.add_le_add hi himp, Nat.add_le_add he hexp⟩

/-- The gains of a block that passes lie in their range (R145, index 4 to 6). -/
theorem passed_gains {b : List Byte} {q : Option Nat} (h : configFailure b q = none) :
    (configSetup b).gain1 ≤ 49151 ∧ (configSetup b).gain2 ≤ 49151 ∧ (configSetup b).gain3 ≤ 49151 := by
  have hall := (configFailure_none_iff b q).mp h
  have h4 := hall (4, decide (16384 ≤ fieldAt b 3 2) && decide (fieldAt b 3 2 ≤ 49151)) (by simp [configChecks])
  have h5 := hall (5, decide (16384 ≤ fieldAt b 5 2) && decide (fieldAt b 5 2 ≤ 49151)) (by simp [configChecks])
  have h6 := hall (6, decide (16384 ≤ fieldAt b 7 2) && decide (fieldAt b 7 2 ≤ 49151)) (by simp [configChecks])
  simp only [Bool.and_eq_true, decide_eq_true_eq] at h4 h5 h6
  exact ⟨h4.2, h5.2, h6.2⟩

theorem missingProducts_range {q : SamplePort} (h : ProductsInRange q.lastGood) :
    ProductsInRange (missingProducts q) := by
  unfold missingProducts
  split
  · exact h
  · exact productsInRange_zero

theorem flagMissing_block (q : SamplePort) (n : NettingEngine) :
    (flagMissing q n).blockSets = n.blockSets ∧ (flagMissing q n).accImport = n.accImport
      ∧ (flagMissing q n).accExport = n.accExport := by
  unfold flagMissing
  split <;> exact ⟨rfl, rfl, rfl⟩

/-- A Sample Port that is not IDLE is one of RUN or RESYNC. -/
theorem SamplingFits.opLive_of_not_idle {k : Option Setup} {v : Supply} {q : SamplePort}
    {n : NettingEngine} {b : RegisterBank} (h : SamplingFits k v q n b) (hidle : q.state ≠ .idle) :
    opLive v.op = true := by
  rw [ne_eq, h.1, Bool.not_eq_false] at hidle
  exact hidle

theorem samplingFits_closed : MeterClosed SamplingFits where
  close c v q n b h := by
    obtain ⟨hidle, hwd, hconf, hg, _, _, _, _, hp⟩ := h
    exact ⟨hidle, hwd, hconf, hg, fun _ => rfl, Nat.zero_le _, Nat.zero_le _, Nat.zero_le _, hp⟩
  clear k v q n b h := h
  band k v q n b x h := h
  missing c v q n b h hidle hroom := by
    have hl := h.opLive_of_not_idle hidle
    obtain ⟨_, _, hconf, hg, _, _, hi, he, hp⟩ := h
    obtain ⟨hb, hai, hae⟩ := flagMissing_block q n
    have hlg : (missSet q).lastGood = q.lastGood := by rw [missSet_eq]
    obtain ⟨h64, hi', he'⟩ := netSet_range (m := c.mode) (n := flagMissing q n) (missingProducts_range hp)
      (hb ▸ hroom hl) (by rw [hai, hb]; exact hi) (by rw [hae, hb]; exact he)
    refine ⟨?_, ?_, hconf, hg, ?_, h64, hi', he', hlg ▸ hp⟩
    · simp [hl, missSet_not_idle hidle]
    · simp [hl]
    · simp [hl]
  expiry k v q n b h hidle := by
    have hl := h.opLive_of_not_idle hidle
    obtain ⟨hst, _, hrest⟩ := h
    exact ⟨hst, fun hf => absurd hf (by simp [hl]), hrest⟩
  received c v q n b e bytes h hidle hroom := by
    have hl := h.opLive_of_not_idle hidle
    obtain ⟨_, _, hconf, hg, _, _, hi, he, _⟩ := h
    obtain ⟨hg1, hg2, hg3⟩ := hg c rfl
    have hp := formProducts_range hg1 hg2 hg3 bytes
    obtain ⟨h64, hi', he'⟩ := netSet_range (m := c.mode) hp (hroom hl) hi he
    refine ⟨?_, ?_, hconf, hg, ?_, h64, hi', he', hp⟩ <;> simp [hl]
  live k v q n b op h hl hl' := by
    obtain ⟨hidle, _, hconf, hg, _, hrest⟩ := h
    refine ⟨?_, ?_, fun _ => hconf hl, hg, ?_, hrest⟩
    · simp only [hl']
      rw [hidle, hl]
    · simp [hl']
    · simp [hl']
  hold k v q n b r w t h hz := by
    obtain ⟨_, _, hconf, hg, hz', h64, hi, he, _⟩ := h
    refine ⟨by simp [SamplePort.reset, opLive], fun _ => rfl, fun hl => by simp [opLive] at hl, hg, fun _ => ?_,
      h64, hi, he, productsInRange_zero⟩
    cases hl : opLive v.op with
    | false => exact hz' hl
    | true => exact hz (hconf hl) hl
  warn k v q n b w t h := h
  unhold k v q n b h hop := by
    obtain ⟨hidle, hwd, _, hg, hz, hrest⟩ := h
    rw [hop] at hidle hwd hz
    exact ⟨hidle, hwd, fun hl => by simp [opLive] at hl, hg, hz, hrest⟩
  wake c v q n b op h _ hl := by
    obtain ⟨_, _, _, hg, _, hrest⟩ := h
    refine ⟨?_, ?_, ?_, hg, ?_, hrest⟩ <;> simp [hl, leaveIdle]
  accept k v q n b block h hop hpass := by
    obtain ⟨hidle, hwd, _, _, hz, h64, hi, he, hp⟩ := h
    have hn : (acceptNetting v.retentionValid n).blockSets = n.blockSets
        ∧ (acceptNetting v.retentionValid n).accImport = n.accImport
        ∧ (acceptNetting v.retentionValid n).accExport = n.accExport := by
      unfold acceptNetting
      split <;> exact ⟨rfl, rfl, rfl⟩
    obtain ⟨hnb, hni, hne⟩ := hn
    refine ⟨hidle, hwd, fun _ => by simp, fun c hc => ?_, ?_, ?_, ?_, ?_, hp⟩
    · obtain rfl := Option.some.inj hc
      exact passed_gains hpass
    · rwa [hnb]
    · rwa [hnb]
    · rwa [hnb, hni]
    · rwa [hnb, hne]
  powerOn v hl _ := by
    refine ⟨?_, fun _ => rfl, ?_, fun c hc => (by cases hc), fun _ => rfl, Nat.zero_le _, Nat.zero_le _,
      Nat.zero_le _, productsInRange_zero⟩
    · simp [hl, SamplePort.reset]
    · simp [hl]
  reset k v q n b v' _ hl _ _ := by
    refine ⟨?_, fun _ => rfl, ?_, fun c hc => (by cases hc), fun _ => rfl, Nat.zero_le _, Nat.zero_le _,
      Nat.zero_le _, productsInRange_zero⟩
    · simp [hl, SamplePort.reset]
    · simp [hl]

/-! ## The quiet line -/

/-- Both channels IDLE with their receivers off, and an empty send list (R77). -/
def LineSilent (l : Line) : Prop :=
  (∀ ch, (chanOf l ch).access = .idle ∧ (chanOf l ch).recv = .off) ∧ l.sendList = []

theorem lineQuiet_iff (s : State) : LineQuiet s ↔ (isLive s = false → LineSilent s.line) := by
  unfold LineQuiet LineSilent
  constructor
  · intro h hl
    obtain ⟨hl1, hh1, hl2, hh2, hs⟩ := h hl
    exact ⟨fun ch => by cases ch <;> constructor <;> assumption, hs⟩
  · intro h hl
    obtain ⟨hch, hs⟩ := h hl
    exact ⟨(hch .l).1, (hch .h).1, (hch .l).2, (hch .h).2, hs⟩

/-- Judging finds nothing to do on a silent line in START and HOLD. -/
theorem judgeLine_silent {l : Line} (h : LineSilent l) : LineSilent (judgeLine false l) := by
  obtain ⟨hch, hs⟩ := h
  refine ⟨fun ch => ⟨?_, by rw [judgeLine_recv]; exact (hch ch).2⟩, ?_⟩
  · obtain ⟨hidle, _⟩ := hch ch
    have hlapse : (lapseChan (inSendingSet l ch) (chanOf l ch)).access = .idle := by
      unfold lapseChan
      rw [hidle]
      split <;> exact hidle
    rw [judgeLine_chan]
    simp only [Bool.false_and, commitChan, Bool.false_eq_true, if_false]
    rcases freeChan_cases (remaining l) (lapseChan (inSendingSet l ch) (chanOf l ch)) with ⟨he, _⟩ | he
    · rw [he]
      exact hlapse
    · exact he
  · rw [judgeLine_sendList]
    have hsub := remaining_sublist l
    rw [hs] at hsub
    exact List.eq_nil_of_sublist_nil hsub

/-- One channel of a silent line replaced by another that is IDLE and does not receive. -/
theorem LineSilent.setChan {l : Line} (h : LineSilent l) (ch : Channel) {c : Chan}
    (ha : c.access = .idle) (hr : c.recv = .off) : LineSilent (setChan l ch c) := by
  obtain ⟨hch, hs⟩ := h
  refine ⟨fun k => ?_, by simpa using hs⟩
  by_cases hk : k = ch
  · rw [hk, chanOf_setChan_same]
    exact ⟨ha, hr⟩
  · rw [chanOf_setChan_other l c hk]
    exact hch k

theorem errorUp_access (c : Chan) : (errorUp c).access = c.access ∧ (errorUp c).recv = c.recv := by
  unfold errorUp
  split <;> exact ⟨rfl, rfl⟩

theorem errorDown_access (c : Chan) : (errorDown c).access = c.access ∧ (errorDown c).recv = c.recv := by
  unfold errorDown
  split <;> exact ⟨rfl, rfl⟩

/-- A channel of a silent line has not left IDLE. -/
theorem LineSilent.not_access {l : Line} (h : LineSilent l) {ch : Channel} {a : AccessState}
    (ha : (chanOf l ch).access = a) (hne : a ≠ .idle) : False :=
  hne (ha.symm.trans (h.1 ch).1)

theorem lineSilent_closed : LineClosed fun live l => live = false → LineSilent l where
  handReport _ _ _ _ := nofun
  handPresence _ _ _ := nofun
  windowClose _ _ := nofun
  hold _ _ _ _ := ⟨fun ch => by cases ch <;> exact ⟨rfl, rfl⟩, rfl⟩
  wake _ _ := nofun
  accept l x y h hl := by
    obtain ⟨hch, hs⟩ := h hl
    have hacc : ∀ on c, (acceptChan on c).access = c.access ∧ (acceptChan on c).recv = c.recv := by
      intro on c
      unfold acceptChan
      split <;> exact ⟨rfl, rfl⟩
    refine ⟨fun ch => ?_, hs⟩
    cases ch
    · exact ⟨(hacc x l.l).1.trans (hch .l).1, (hacc x l.l).2.trans (hch .l).2⟩
    · exact ⟨(hacc y l.h).1.trans (hch .h).1, (hacc y l.h).2.trans (hch .h).2⟩
  filter b l f h hl := ⟨fun | .l => (h hl).1 .l | .h => (h hl).1 .h, (h hl).2⟩
  recv b l ch r h hoff _ _ hl := absurd ((h hl).1 ch).2 hoff
  errorUp b l ch h hl := by
    subst hl
    obtain ⟨ha, hr⟩ := (h rfl).1 ch
    exact judgeLine_silent ((h rfl).setChan ch ((errorUp_access _).1.trans ha) ((errorUp_access _).2.trans hr))
  errorDown b l ch h hl := by
    subst hl
    obtain ⟨ha, hr⟩ := (h rfl).1 ch
    exact judgeLine_silent
      ((h rfl).setChan ch ((errorDown_access _).1.trans ha) ((errorDown_access _).2.trans hr))
  bar b l h hl := by
    obtain ⟨hch, _⟩ := h hl
    have hbar : ∀ c : Chan, c.access = .idle → barChan c = c := fun c hc => by simp [barChan, hc]
    refine ⟨fun ch => ?_, rfl⟩
    cases ch
    · show (barChan l.l).access = .idle ∧ (barChan l.l).recv = .off
      rw [hbar l.l (hch .l).1]
      exact hch .l
    · show (barChan l.h).access = .idle ∧ (barChan l.h).recv = .off
      rw [hbar l.h (hch .h).1]
      exact hch .h
  sense b l ch a h hl := by
    obtain ⟨ha, hr⟩ := (h hl).1 ch
    refine (h hl).setChan ch ?_ ?_ <;> simp [senseChan, ha, hr]
  gap b l ch n h ha hl := ((h hl).not_access ha (by decide)).elim
  begin b l ch bytes h ha hl := ((h hl).not_access ha (by decide)).elim
  dropLate b l ch h ha hl := ((h hl).not_access ha (by decide)).elim
  next b l ch rest h ha hl := ((h hl).not_access ha (by decide)).elim
  sent b l ch h ha hl := ((h hl).not_access ha (by decide)).elim
  failed b l ch h ha hl := ((h hl).not_access ha (by decide)).elim
  missing b l ch h ha hl := ((h hl).not_access ha (by decide)).elim
  guard b l ch h ha hl := ((h hl).not_access ha (by decide)).elim
  enable b l ch _ _ hb hl := by
    rw [hb] at hl
    cases hl
  disable b l ch h hl := by
    subst hl
    exact judgeLine_silent ((h rfl).setChan ch rfl rfl)
  reset _ _ _ := ⟨fun ch => by cases ch <;> exact ⟨rfl, rfl⟩, rfl⟩

/-- Every step keeps the line quiet in START and HOLD. -/
theorem lineQuiet_kept : KeptByStep LineQuiet := by
  have h := line_kept lineSilent_closed
  intro s t hs hst
  rw [lineQuiet_iff] at hs ⊢
  exact h s t hs hst

/-- Every step keeps the laws of the Sample Port, the operating state and the block. -/
theorem samplingLaws_kept : KeptByStep fun s => QuietLaw s ∧ ConfiguredLaw s ∧ BlockLaw s := by
  intro s t hs hst
  rw [samplingLaws_iff] at hs ⊢
  exact ⟨meter_kept samplingFits_closed s t hs.1 hst, lineQuiet_kept s t hs.2 hst⟩

end Sys2Proof.Machine
end

section
namespace Sys2Proof.Machine

/-! ## A part held in reset -/

/-- The row of a reset. -/
def isReset : Instr → Bool
  | .powerOnReset _ => true
  | .resetn _ => true
  | _ => false

theorem enterHold_resetHeld (w : Bool) (s : State) :
    (enterHold w s).supply.resetHeld = s.supply.resetHeld := by
  show (holdClose s).supply.resetHeld = _
  rw [holdClose_supply]

theorem holdIfWarned_resetHeld (s : State) :
    (holdIfWarned s).supply.resetHeld = s.supply.resetHeld := by
  unfold holdIfWarned
  split
  · exact enterHold_resetHeld _ _
  · rfl

theorem leaveHold_resetHeld (s : State) : (leaveHold s).supply.resetHeld = s.supply.resetHeld := by
  unfold leaveHold
  split <;> rfl

theorem configAccepted_resetHeld (b : List Byte) (s : State) :
    (configAccepted b s).supply.resetHeld = s.supply.resetHeld := by
  unfold configAccepted leaveStart
  split <;> rfl

theorem earlyClose_resetHeld (c : Setup) (k : EarlyCause) (s : State) :
    (earlyClose c k s).supply.resetHeld = s.supply.resetHeld := by rw [earlyClose_supply]

theorem passOn_resetHeld (c : Setup) (ch : Channel) (f : GroupFrame) (s : State) :
    (passOn c ch f s).supply.resetHeld = s.supply.resetHeld := by
  unfold passOn
  split
  · rfl
  · unfold offerTiming
    split
    · rfl
    · split
      · rfl
      · exact earlyClose_resetHeld c .adoption s
  · rfl
  · rfl

theorem frameCompletes_resetHeld (ch : Channel) (bytes : List Byte) (s : State) :
    (frameCompletes ch bytes s).supply.resetHeld = s.supply.resetHeld := by
  unfold frameCompletes
  split
  · rfl
  · split
    · split
      · rw [malformedEnds_supply]
      · split
        · unfold judgeFrame
          split
          all_goals first
            | rfl
            | exact passOn_resetHeld _ _ _ _
        · rfl
    · rfl

theorem presetPosition_resetHeld (c : Setup) (id : IntervalId) (e : Nat) (s : State) :
    (presetPosition c id e s).supply.resetHeld = s.supply.resetHeld := by
  unfold presetPosition
  dsimp only
  split <;> exact earlyClose_resetHeld c .setDay s

theorem resyncFromRun_resetHeld (c : Setup) (s : State) :
    (resyncFromRun c s).supply.resetHeld = s.supply.resetHeld :=
  earlyClose_resetHeld c .resync s

/-- No command but a reset's own rows begins or ends a reset (R143). -/
theorem after_resetHeld {i : Instr} (hi : isReset i = false) (s : State) :
    (after i s).supply.resetHeld = s.supply.resetHeld := by
  have hserved : ∀ f, (f (takeDue s)).supply.resetHeld = s.supply.resetHeld →
      (served f (takeDue s)).supply.resetHeld = s.supply.resetHeld :=
    fun f => served_cases (p := fun t => t.supply.resetHeld = s.supply.resetHeld) (by simp)
  cases i <;> simp only [after]
  all_goals first
    | simp
    | skip
  case countCompleteBoundary => (repeat' split) <;> simp
  case unalignedBoundary => (repeat' split) <;> simp
  case windowClose => split <;> simp
  case completeFrame => rw [frameCompletes_resetHeld, takeDue_supply]
  case holdEntry =>
    refine unlessHeld_cases (p := fun t => t.supply.resetHeld = s.supply.resetHeld) (by simp) ?_
    unfold pfwActive
    split
    · simp
    · rw [enterHold_resetHeld, takeDue_supply]
  case pfwInactive => split <;> rfl
  case releaseTimer =>
    split
    · rw [holdIfWarned_resetHeld, leaveHold_resetHeld]
    · rfl
  case powerOnReset => cases hi
  case resetn => cases hi
  case loadConfig =>
    split
    · rfl
    · refine hserved _ ?_
      unfold loadConfigActs
      dsimp only
      (repeat' split)
      · simp
      · rw [respond_supply, holdIfWarned_resetHeld, configAccepted_resetHeld, takeDue_supply]
      · simp
  case setDayPosition =>
    refine hserved _ ?_
    unfold setDayPositionActs
    dsimp only
    (repeat' split)
    all_goals simp [presetPosition_resetHeld]
  case resync =>
    refine hserved _ ?_
    unfold resyncActs
    (repeat' split)
    all_goals simp [resyncFromRun_resetHeld]
  case pfwActiveInHold => split <;> rfl
  case discardedTransaction csn => cases csn <;> simp

/-- A row of the host reaches a port that does not serve: CSN is low, and nothing else changes (R161). -/
theorem served_of_not_serving {f : State → State} {s : State} (h : s.port.serving = false) :
    served f s = csnFalls s := by
  simp [served, h]

/-- While a reset is held no row but a reset's and a change of the CS level moves anything outside the
port (R143, R161). -/
theorem after_held {i : Instr} {s : State} (hi : isReset i = false)
    (hcs : ∀ ch a, i ≠ .carrierSenseChange ch a) (hlaw : ResetLaw s) (hheld : s.supply.resetHeld = true) :
    ∃ q : Port, q.serving = false ∧ after i s = { s with port := q } := by
  obtain ⟨hc, hop, hidle, ⟨_, hla, hlr⟩, ⟨_, hha, hhr⟩, _, hserve⟩ := hlaw hheld
  have htd : takeDue s = s := by simp [takeDue, hc]
  have hsame : ∃ q : Port, q.serving = false ∧ s = { s with port := q } := ⟨s.port, hserve, rfl⟩
  have hfall : ∃ q : Port, q.serving = false ∧ csnFalls s = { s with port := q } :=
    ⟨{ s.port with csnLow := true }, hserve, rfl⟩
  have hrise : ∃ q : Port, q.serving = false ∧ csnRises s = { s with port := q } :=
    ⟨{ Port.reset with serving := !s.supply.resetHeld }, by simp [hheld], rfl⟩
  have hrecv : ∀ ch, (chanOf s.line ch).recv = .off := fun ch => by cases ch <;> assumption
  have hacc : ∀ ch, (chanOf s.line ch).access = .idle := fun ch => by cases ch <;> assumption
  cases i <;> simp only [after, htd, served_of_not_serving hserve]
  case powerOnReset => cases hi
  case resetn => cases hi
  case carrierSenseChange ch a => exact absurd rfl (hcs ch a)
  case loadConfig => split <;> assumption
  case discardedTransaction csn =>
    cases csn <;> simp only [served_of_not_serving hserve] <;> assumption
  all_goals first
    | exact hfall
    | simpa only [sampleArrives, watchdogExpires, blockCloses, receptionStarts, frameCompletes, malformedEnds,
        timeoutEnds, becomesReady, gapCompletes, backoffEnds, echoArrives, echoMissing, guardTrips, unlessHeld,
        hc, hop, hheld, hrecv, hacc, reduceCtorEq, or_self, false_and, if_true, if_false] using hsame

end Sys2Proof.Machine
end

section
namespace Sys2Proof.Machine

/-! ## The law of a part held in reset -/

theorem chanSilent_with_cs {c : Chan} (a : Bool) (h : ChanSilent c) : ChanSilent (senseChan a c) := by
  obtain ⟨hs, ha, hr⟩ := h
  simp [ChanSilent, senseChan, hs, ha, hr]

/-- A reset that is held or ended leaves the law of a part held in reset. -/
theorem resetLaw_resetPhase (phase : ResetPhase) {s : State} (hc : s.config = none)
    (hop : s.supply.op = .start) (hsp : s.sp.state = .idle) (hl : ChanSilent s.line.l)
    (hh : ChanSilent s.line.h) (ha : s.alerts.latches = 0) : ResetLaw (resetPhase phase s) := by
  cases phase with
  | held => exact fun _ => ⟨hc, hop, hsp, hl, hh, ha, rfl⟩
  | ended => nofun

/-- While the reset lasts a blocked store latches nothing (R140). -/
theorem resetLaw_alertBlocked {s : State} (h : ResetLaw s) : ResetLaw (alertBlocked s) := by
  intro hheld
  have hheld' : s.supply.resetHeld = true := hheld
  have he : alertBlocked s = s := by simp [alertBlocked, hheld', raiseIf]
  rw [he]
  exact h hheld'

theorem resetLaw_carrierChanges {s : State} (ch : Channel) (a : Bool) (h : ResetLaw s) :
    ResetLaw (carrierChanges ch a s) := by
  intro hheld
  rw [carrierChanges_supply] at hheld
  obtain ⟨hc, hop, hsp, hl, hh, ha, hserve⟩ := h hheld
  refine ⟨by simpa, by simpa, by simpa, ?_, ?_, by simpa, by simpa⟩
  all_goals
    unfold carrierChanges
    split
  · exact hl
  · cases ch
    · exact chanSilent_with_cs a hl
    · exact hl
  · exact hh
  · cases ch
    · exact hh
    · exact chanSilent_with_cs a hh

/-- Every command keeps the law of a part held in reset. -/
theorem resetLaw_after (i : Instr) {s : State} (h : ResetLaw s) : ResetLaw (after i s) := by
  by_cases hi : isReset i
  · cases i
    case powerOnReset phase =>
      exact resetLaw_resetPhase phase rfl rfl rfl ⟨rfl, rfl, rfl⟩ ⟨rfl, rfl, rfl⟩ rfl
    case resetn phase =>
      exact resetLaw_alertBlocked
        (resetLaw_resetPhase phase rfl rfl rfl ⟨rfl, rfl, rfl⟩ ⟨rfl, rfl, rfl⟩ rfl)
    all_goals cases hi
  · rw [Bool.not_eq_true] at hi
    by_cases hcs : ∃ ch a, i = .carrierSenseChange ch a
    · obtain ⟨ch, a, rfl⟩ := hcs
      intro hheld
      have hheld' : s.supply.resetHeld = true := (after_resetHeld hi s).symm.trans hheld
      have htd : takeDue s = s := by simp [takeDue, (h hheld').1]
      have hlaw : ResetLaw (carrierChanges ch a (takeDue s)) := by
        rw [htd]
        exact resetLaw_carrierChanges ch a h
      exact hlaw hheld
    · intro hheld
      have hheld' : s.supply.resetHeld = true := (after_resetHeld hi s).symm.trans hheld
      obtain ⟨q, hq, he⟩ := after_held hi (fun ch a hcc => hcs ⟨ch, a, hcc⟩) h hheld'
      rw [he]
      obtain ⟨hc, hop, hsp, hl, hh, ha, _⟩ := h hheld'
      exact ⟨hc, hop, hsp, hl, hh, ha, hq⟩

/-- Every step keeps the law of a part held in reset. -/
theorem resetLaw_kept : KeptByStep ResetLaw :=
  kept_of_after (fun _ _ h => h) fun i _ h => resetLaw_after i h

/-! ## The law of the readout port -/

/-- A transaction is in progress, and the port serves it (R160). -/
def Port.Busy (p : Port) : Prop :=
  p.serving = true ∧ p.csnLow = true ∧ p.txn ≠ .idle

/-- What a command that is no reset does to the port: it leaves it, a transaction that is not served
begins, one that is served goes on, or CSN rises (R160, R161). -/
def PortFollows (s t : State) : Prop :=
  t.port = s.port
    ∨ (s.port.serving = false ∧ t.port = { s.port with csnLow := true })
    ∨ t.port.Busy
    ∨ t.port = { Port.reset with serving := !s.supply.resetHeld }

theorem respond_busy (i : Instr) (r : ResultCode) (data : List Byte) (s : State) :
    (respond i r data s).port.Busy := ⟨rfl, rfl, nofun⟩

theorem portFollows_served {f : State → State} {s u : State} (hp : u.port = s.port)
    (hf : (f u).port.Busy ∨ (f u).port = s.port) : PortFollows s (served f u) := by
  unfold served
  split
  · rcases hf with hf | hf
    · exact .inr (.inr (.inl hf))
    · exact .inl hf
  · rename_i hs
    rw [Bool.not_eq_true, hp] at hs
    exact .inr (.inl ⟨hs, by rw [csnFalls_port, hp]⟩)

theorem portFollows_csnRises (s : State) : PortFollows s (csnRises s) :=
  .inr (.inr (.inr rfl))

theorem unknownActs_follows (b : Byte) (s : State) :
    (unknownActs b s).port.Busy ∨ (unknownActs b s).port = s.port := by
  unfold unknownActs
  split
  · exact .inl ⟨rfl, rfl, nofun⟩
  · exact .inr rfl

theorem transactionBegins_follows (taken : List Byte) (s : State) :
    (transactionBegins taken s).port.Busy ∨ (transactionBegins taken s).port = s.port := by
  unfold transactionBegins
  split
  · refine .inl ⟨rfl, rfl, ?_⟩
    show (if taken.isEmpty then TxnState.takingCommand else .takingArguments) ≠ .idle
    split <;> nofun
  · exact .inr rfl

/-- What a command that is no reset does to the port. -/
theorem after_portFollows {i : Instr} (hi : isReset i = false) (s : State) :
    PortFollows s (after i s) := by
  have hd : (takeDue s).port = s.port := takeDue_port s
  cases i <;> simp only [after]
  case powerOnReset => cases hi
  case resetn => cases hi
  case unknownCommand b => exact portFollows_served rfl (unknownActs_follows b s)
  case discardedTransaction csn =>
    cases csn with
    | begun taken => exact portFollows_served rfl (transactionBegins_follows taken s)
    | beforeActing _ => exact portFollows_csnRises s
    | afterwards => exact portFollows_csnRises s
  case loadConfig block =>
    split
    · exact portFollows_csnRises s
    · refine portFollows_served hd (.inl ?_)
      unfold loadConfigActs
      dsimp only
      (repeat' split) <;> exact respond_busy _ _ _ _
  case readStatus | readTotals | readRecord | releasePage | writeLines | releaseCutoff | readAlert | ackAlert
      | setMask | setDayPosition | readPeer | enableChannel | resync =>
    refine portFollows_served hd (.inl ?_)
    simp only [readStatusActs, readTotalsActs, readRecordActs, releasePageActs, writeLinesActs,
      releaseCutoffActs, readAlertActs, ackAlertActs, setMaskActs, setDayPositionActs, readPeerActs,
      enableChannelActs, resyncActs]
    (repeat' split) <;> exact respond_busy _ _ _ _
  all_goals refine .inl ?_
  case countCompleteBoundary => (repeat' split) <;> simp
  case unalignedBoundary => (repeat' split) <;> simp
  case windowClose => split <;> simp
  case cutoffSample b =>
    exact unlessHeld_cases (p := fun t => t.port = s.port) hd (by simp)
  case holdEntry b =>
    refine unlessHeld_cases (p := fun t => t.port = s.port) hd ?_
    unfold pfwActive
    split <;> simp
  case pfwInactive => split <;> rfl
  case releaseTimer => split <;> simp
  case pfwActiveInHold => split <;> rfl
  all_goals simp

/-- What a command that is no reset does to the port keeps its law. -/
theorem PortFollows.law {s t : State} (h : PortFollows s t)
    (hheld : t.supply.resetHeld = s.supply.resetHeld) (hlaw : PortLaw s) : PortLaw t := by
  obtain ⟨hserved, hunserved⟩ := hlaw
  rw [PortLaw, hheld]
  rcases h with he | ⟨hs, he⟩ | ⟨hs, hlow, htxn⟩ | he
  · rw [he]
    exact ⟨hserved, hunserved⟩
  · rw [he]
    exact ⟨fun hs' => absurd (hs.symm.trans hs') nofun, fun _ => ⟨(hunserved hs).1, .inr rfl⟩⟩
  · exact ⟨fun _ => by simp [hlow, htxn], fun hs' => absurd (hs.symm.trans hs') nofun⟩
  · rw [he]
    exact ⟨fun _ => ⟨fun _ => rfl, fun _ => rfl⟩, fun hs => ⟨rfl, .inl (by simpa using hs)⟩⟩

theorem portLaw_resetPhase (phase : ResetPhase) (s : State) : PortLaw (resetPhase phase s) := by
  cases phase with
  | held => exact ⟨nofun, fun _ => ⟨rfl, .inl rfl⟩⟩
  | ended pfw csnLow =>
    cases csnLow
    · exact ⟨fun _ => ⟨fun _ => rfl, fun _ => rfl⟩, nofun⟩
    · exact ⟨nofun, fun _ => ⟨rfl, .inr rfl⟩⟩

/-- Every command keeps the law of the readout port. -/
theorem portLaw_after (i : Instr) {s : State} (h : PortLaw s) : PortLaw (after i s) := by
  by_cases hi : isReset i
  · cases i
    case powerOnReset phase => exact portLaw_resetPhase phase _
    case resetn phase => exact portLaw_resetPhase phase _
    all_goals cases hi
  · rw [Bool.not_eq_true] at hi
    exact (after_portFollows hi s).law (after_resetHeld hi s) h

/-- Every step keeps the law of the readout port. -/
theorem portLaw_kept : KeptByStep PortLaw :=
  kept_of_after (fun _ _ h => h) fun i _ h => portLaw_after i h

/-- Settles O14: the Sample Port, the block and the line by the steps of the meter and of the line; a part
held in reset and the port by what each command leaves of them. -/
theorem samplingLawsAreKept : Obligations.SamplingLawsAreKept :=
  ⟨samplingLaws_kept, resetLaw_kept, portLaw_kept⟩

end Sys2Proof.Machine
end

section
/-! SUPPORT. The interval in progress and the open window: every step keeps their laws. -/

namespace Sys2Proof.Machine

/-! ## The laws of the interval and of the window, read off the part -/

/-- W as acceptance clamps it (R146). -/
def WindowInHalf (c : Setup) : Prop :=
  3200 ≤ c.window ∧ 2 * c.window ≤ nominalLength c.lengthCode

/-- The figures of the interval in progress (R32, R34, R37 to R39). -/
structure IntervalFits (c : Setup) (it : IntervalTimer) : Prop where
  trimLow : -32 ≤ it.trim
  trimHigh : it.trim ≤ 32
  length : it.length = some ((nominalLength c.lengthCode : Int) + it.trim).toNat
  elapsed : (it.elapsed : Int) ≤ (nominalLength c.lengthCode : Int) + it.trim
  begun : it.startPos ≤ it.elapsed
  start : it.startPos < nominalLength c.lengthCode
  window : it.window ≠ none → it.elapsed ≤ c.window

/-- The laws of the window and of the interval over the four parts they read: the configuration, the operating
state, the Interval Timer and the closing record. -/
structure TimingFits (k : Option Setup) (op : OpState) (it : IntervalTimer) (closing : Option Figures) :
    Prop where
  waiting : it.window = closing.map (·.id)
  runOnly : op ≠ .run → it.window = none
  half : ∀ c, k = some c → WindowInHalf c
  live : opLive op = true → ∃ c, k = some c ∧ IntervalFits c it

/-- The laws of the interval and of the window, read off the part. -/
def TimingHas (s : State) : Prop :=
  TimingFits s.config s.supply.op s.it s.su.closing

theorem timingLaws_iff (s : State) : (WindowLaw s ∧ IntervalLaw s) ↔ TimingHas s := by
  constructor
  · rintro ⟨⟨hwait, hrun⟩, hint, hconf, _⟩
    refine ⟨hwait, hrun, fun c hc => ⟨(hint c hc).1, (hint c hc).2.1⟩, fun hl => ?_⟩
    obtain ⟨c, hc⟩ := Option.ne_none_iff_exists'.mp (hconf hl)
    obtain ⟨_, _, hfits⟩ := hint c hc
    obtain ⟨h1, h2, h3, h4, h5, h6, h7⟩ := hfits hl
    exact ⟨c, hc, h1, h2, h3, h4, h5, h6, h7⟩
  · rintro ⟨hwait, hrun, hhalf, hlive⟩
    refine ⟨⟨hwait, hrun⟩, fun c hc => ⟨(hhalf c hc).1, (hhalf c hc).2, fun hl => ?_⟩, fun hl => ?_,
      fun hl => hrun ?_⟩
    · obtain ⟨d, hd, hf⟩ := hlive hl
      obtain rfl : c = d := Option.some.inj (hc.symm.trans hd)
      exact ⟨hf.trimLow, hf.trimHigh, hf.length, hf.elapsed, hf.begun, hf.start, hf.window⟩
    · obtain ⟨c, hc, _⟩ := hlive hl
      simp [hc]
    · intro hop
      simp [isLive, opLive, hop] at hl

/-! ## What keeps the laws -/

section Fits

variable {k : Option Setup} {c : Setup} {op : OpState} {it : IntervalTimer} {closing : Option Figures}

theorem TimingFits.closing_of_window (h : TimingFits k op it closing) (hw : it.window = none) :
    closing = none := by
  have := h.waiting
  rw [hw] at this
  exact Option.map_eq_none_iff.mp this.symm

/-- The laws do not read the arrival captures and the presence counter. -/
theorem TimingFits.other {a b : Option Capture} {n : Nat} (h : TimingFits k op it closing) :
    TimingFits k op { it with captureL := a, captureH := b, presence := n } closing where
  waiting := h.waiting
  runOnly := h.runOnly
  half := h.half
  live hl := by
    obtain ⟨c, hc, hf⟩ := h.live hl
    exact ⟨c, hc, hf.trimLow, hf.trimHigh, hf.length, hf.elapsed, hf.begun, hf.start, hf.window⟩

/-- An interval that begins below L fits (R34, R35, R37). -/
theorem IntervalFits.begin {id : IntervalId} {e : Nat} (he : e < nominalLength c.lengthCode)
    (hw : it.window ≠ none → e ≤ c.window) :
    IntervalFits c { it with id := id, elapsed := e, startPos := e, trim := 0,
                             length := some (nominalLength c.lengthCode) } where
  trimLow := show (-32 : Int) ≤ 0 by decide
  trimHigh := show (0 : Int) ≤ 32 by decide
  length := by simp
  elapsed := by simpa using he.le
  begun := le_refl e
  start := he
  window := hw

/-- An interval begins while no window is open. -/
theorem TimingFits.begin {id : IntervalId} {e : Nat} (op : OpState) (hhalf : WindowInHalf c)
    (hw : it.window = none) (he : e < nominalLength c.lengthCode) :
    TimingFits (some c) op
      { it with id := id, elapsed := e, startPos := e, trim := 0,
                length := some (nominalLength c.lengthCode) } none where
  waiting := hw
  runOnly _ := hw
  half _ hc := Option.some.inj hc ▸ hhalf
  live _ := ⟨c, rfl, .begin he fun h => absurd hw h⟩

/-- Outside RUN and RESYNC no interval is in progress: the laws ask for no window and no closing record. -/
theorem TimingFits.idle (hl : opLive op = false) (hhalf : ∀ c, k = some c → WindowInHalf c)
    (hw : it.window = none) : TimingFits k op it none where
  waiting := hw
  runOnly _ := hw
  half := hhalf
  live h := by simp [hl] at h

/-- A set counts where neither the interval is complete nor the window due (R31, R38). -/
theorem TimingFits.count {a b : Option Capture} (h : TimingFits (some c) op it closing)
    (hlen : opLive op = true → ∀ n, it.length = some n → it.elapsed < n)
    (hdue : opLive op = true → it.window ≠ none → it.elapsed < c.window) :
    TimingFits (some c) op
      { it with elapsed := it.elapsed + 1, captureL := a, captureH := b } closing where
  waiting := h.waiting
  runOnly := h.runOnly
  half := h.half
  live hl := by
    obtain ⟨d, hd, hf⟩ := h.live hl
    obtain rfl : c = d := Option.some.inj hd
    have hlt := hlen hl _ hf.length
    have hpos := nominalLength_pos c.lengthCode
    exact ⟨c, rfl, hf.trimLow, hf.trimHigh, hf.length, by dsimp only; omega, hf.begun.trans (Nat.le_succ _),
      hf.start, fun hw => hdue hl hw⟩

/-- A window that closes with its settlement hands back a trim, which leaves the elapsed count within the
interval: W lies in its first half (R38, R39, R95, R146). -/
theorem TimingFits.trim {t : Int} (h : TimingFits (some c) op it closing) (ht : -32 ≤ t ∧ t ≤ 32)
    (hopen : it.window ≠ none) :
    TimingFits (some c) op
      { it with window := none, trim := t, length := some ((nominalLength c.lengthCode : Int) + t).toNat }
      none where
  waiting := rfl
  runOnly _ := rfl
  half := h.half
  live hl := by
    obtain ⟨d, hd, hf⟩ := h.live hl
    obtain rfl : c = d := Option.some.inj hd
    have hpos := nominalLength_pos c.lengthCode
    have hle := hf.window hopen
    have hw := (h.half c rfl).2
    exact ⟨c, rfl, ht.1, ht.2, rfl, by dsimp only; omega, hf.begun, hf.start, fun hw => absurd rfl hw⟩

end Fits

/-! ## The named operations -/

/-- A closed window leaves no closing record (R91). -/
theorem closeWindow_closing (c : Setup) (s : State) : (closeWindow c s).su.closing = none := by
  unfold closeWindow
  split
  · simp [settleWindow, settleUnit]
  · assumption

/-- The Interval Timer after a window close: the window closed, nothing else (R38). -/
theorem closeWindow_it (c : Setup) (s : State) :
    (closeWindow c s).it = { s.it with window := none } := by
  unfold closeWindow
  split
  · simp [settleWindow]
  · rfl

/-- An early close leaves neither an open window nor a closing record (R40). -/
theorem earlyClose_timing {c : Setup} {k : EarlyCause} {s : State} (h : TimingHas s) :
    (earlyClose c k s).it = { s.it with window := none } ∧ (earlyClose c k s).su.closing = none := by
  have hset : (settleOpenWindow c (closeOpenBlock c (k != .hold) s)).it = { s.it with window := none }
      ∧ (settleOpenWindow c (closeOpenBlock c (k != .hold) s)).su.closing = none := by
    unfold settleOpenWindow
    split
    · exact ⟨by simp [closeWindow_it], closeWindow_closing _ _⟩
    · rename_i hw
      have hw' : s.it.window = none := by simpa using hw
      exact ⟨by simp [← hw'], by simpa using h.closing_of_window hw'⟩
  refine ⟨by simp [earlyClose, hset.1], ?_⟩
  simp only [earlyClose, soloEffects]
  split <;> simpa [emptyEarly] using hset.2

theorem applyClass_closing (n : Nat) (net : Int) (d : Nat) (k : ReportClass) (u : Settlement) :
    (applyClass n net d k u).closing = u.closing := by cases k <;> rfl

/-- A frame leaves the closing record as it is (R79, R84 to R86). -/
theorem receiveFrame_closing (c : Setup) (it : IntervalTimer) (ch : Channel) (cap : Option Capture)
    (f : GroupFrame) (u : Settlement) : (receiveFrame c it ch cap f u).closing = u.closing := by
  unfold receiveFrame
  dsimp only
  split
  · rfl
  · exact applyClass_closing _ _ _ _ _

theorem timing_countBoundary {c : Setup} {s : State} (hc : s.config = some c) (hop : s.supply.op = .run)
    (h : TimingHas s) : TimingHas (countBoundary c s) := by
  have hpos := nominalLength_pos c.lengthCode
  have hit : ∃ n, (countBoundary c s).it =
      { s.it with
        id := succId (perDay c.lengthCode) s.it.id
        elapsed := 0
        startPos := 0
        trim := 0
        length := some (nominalLength c.lengthCode)
        window := some s.it.id
        presence := n } := by
    unfold countBoundary pacePresence
    dsimp only
    split <;> exact ⟨_, rfl⟩
  have hsu : (countBoundary c s).su.closing = some (takeFigures false s) := by
    simp [countBoundary, openWindow]
  obtain ⟨n, hit⟩ := hit
  unfold TimingHas
  rw [countBoundary_config, countBoundary_supply, hit, hsu, hc, hop]
  refine ⟨rfl, fun h => absurd rfl h, fun d hd => h.half d (hc.trans hd), fun _ => ⟨c, rfl, ?_⟩⟩
  exact IntervalFits.begin (it := { s.it with window := some s.it.id, presence := n }) (by omega)
    fun _ => Nat.zero_le _

theorem timing_unalignedClose {c : Setup} {s : State} (hc : s.config = some c) (hop : s.supply.op ≠ .run)
    (h : TimingHas s) : TimingHas (unalignedClose c s) := by
  have hpos := nominalLength_pos c.lengthCode
  have hw := h.runOnly hop
  have hb := TimingFits.begin (id := succId (perDay c.lengthCode) s.it.id) (e := 0) s.supply.op
    (h.half c hc) hw (by omega)
  simpa [TimingHas, hc, h.closing_of_window hw, unalignedClose, beginInterval] using hb

theorem timing_takeDueBoundary {c : Setup} {s : State} (hc : s.config = some c) (h : TimingHas s) :
    TimingHas (takeDueBoundary c s) := by
  unfold takeDueBoundary
  split
  · split
    · exact timing_countBoundary hc ‹_› h
    · exact timing_unalignedClose hc ‹_› h
  · exact h

theorem timing_takeDue {s : State} (h : TimingHas s) : TimingHas (takeDue s) := by
  unfold takeDue
  split
  · exact h
  · rename_i c hc
    exact timing_takeDueBoundary (by simpa using hc) (by simpa [TimingHas] using h)

theorem timing_takeDueWindow {c : Setup} {s : State} (hc : s.config = some c) (h : TimingHas s) :
    TimingHas (takeDueWindow c s) := by
  unfold takeDueWindow
  split
  · rename_i hdue
    obtain ⟨_, hopen, _⟩ := (windowDue_iff c s).mp hdue
    unfold TimingHas at h
    rw [hc] at h
    have ht := h.trim (trimOf_range (heardOffsets s.su.peers)) hopen
    simpa [TimingHas, windowCloses, applyTrim, closeWindow_it, closeWindow_closing, hc] using ht
  · exact h

theorem timing_takeAllDue {c : Setup} {s : State} (hc : s.config = some c) (h : TimingHas s) :
    TimingHas (takeAllDue c s) :=
  timing_takeDueWindow (by simpa using hc) (timing_takeDue h)

/-- A set is counted once all that is due has been taken (R31). -/
theorem timing_oneMoreSet {c : Setup} {s : State} (hc : s.config = some c) (h : TimingHas s) :
    TimingFits (some c) s.supply.op
      { (takeAllDue c s).it with
        elapsed := (takeAllDue c s).it.elapsed + 1
        captureL := ageCapture (takeAllDue c s).it.captureL
        captureH := ageCapture (takeAllDue c s).it.captureH }
      (takeAllDue c s).su.closing := by
  have hd := timing_takeAllDue hc h
  have hn := nothingDue_takeAllDue hc ((timingLaws_iff s).mpr h).2
  have hwd : windowDue c (takeAllDue c s) = false := windowDue_takeDueWindow c _
  unfold TimingHas at hd
  rw [takeAllDue_config, takeAllDue_supply, hc] at hd
  refine hd.count (fun hl n hlen => ?_) fun hl hopen => ?_
  · rw [nothingDue_iff, takeAllDue_config, hc] at hn
    obtain ⟨_, hcc⟩ := hn.resolve_left (by simp)
    by_contra hge
    have := (countComplete_iff (takeAllDue c s)).mpr ⟨by simpa [isLive] using hl, n, hlen, by omega⟩
    simp [hcc] at this
  · by_contra hge
    have := (windowDue_iff c (takeAllDue c s)).mpr ⟨by simpa [isLive] using hl, hopen, by omega⟩
    simp [hwd] at this

theorem timing_missingSet {c : Setup} {s : State} (hc : s.config = some c) (h : TimingHas s) :
    TimingHas (missingSet c s) := by
  simpa [TimingHas, missingSet, countSet, hc] using timing_oneMoreSet hc h

theorem timing_missingSets {c : Setup} (k : Nat) {s : State} (hc : s.config = some c) (h : TimingHas s) :
    TimingHas (missingSets c k s) := by
  induction k generalizing s with
  | zero => exact h
  | succ k ih => exact ih (by simpa using hc) (timing_missingSet hc h)

theorem timing_receivedSet {c : Setup} {q : BitVec 8} {x : Samples} {s : State} (hc : s.config = some c)
    (h : TimingHas s) : TimingHas (receivedSet c q x s) := by
  simpa [TimingHas, receivedSet, countSet, hc] using timing_oneMoreSet hc h

theorem timing_takeFrame {c : Setup} {bytes : List Byte} {s : State} (hc : s.config = some c)
    (h : TimingHas s) : TimingHas (takeFrame c bytes s) := by
  unfold takeFrame
  dsimp only
  split
  · exact timing_receivedSet hc h
  · split
    · exact timing_receivedSet (by simpa using hc) (timing_missingSets _ hc h)
    · exact h

/-! ## Passages between operating states -/

theorem timing_enterHold (w : Bool) {s : State} (h : TimingHas s) : TimingHas (enterHold w s) :=
  TimingFits.idle rfl (by simpa using h.half) rfl

theorem timing_holdIfWarned {s : State} (h : TimingHas s) : TimingHas (holdIfWarned s) := by
  unfold holdIfWarned
  split
  · exact timing_enterHold _ h
  · exact h

/-- RUN is entered below L with no window open (R37, R148, R156). -/
theorem timing_enterRun {c : Setup} {id : IntervalId} {e : Nat} {s : State} (hc : s.config = some c)
    (hhalf : WindowInHalf c) (hw : s.it.window = none) (hcl : s.su.closing = none)
    (he : e < nominalLength c.lengthCode) : TimingHas (enterRun c id e s) := by
  have hb := TimingFits.begin (id := id) .run hhalf hw he
  unfold TimingHas
  rw [enterRun_config, enterRun_su, hc, hcl]
  exact hb.other

/-- RESYNC is entered with no window open (R36). -/
theorem timing_enterResync {c : Setup} {id : IntervalId} {s : State} (hc : s.config = some c)
    (hhalf : WindowInHalf c) (hw : s.it.window = none) (hcl : s.su.closing = none) :
    TimingHas (enterResync c id s) := by
  have hpos := nominalLength_pos c.lengthCode
  unfold TimingHas
  rw [enterResync_config, enterResync_su, hc, hcl]
  exact TimingFits.begin .resync hhalf hw (by omega)

theorem timing_leaveHold {s : State} (hop : s.supply.op = .hold) (h : TimingHas s) :
    TimingHas (leaveHold s) := by
  have hw := h.runOnly (by simp [hop])
  have hcl := h.closing_of_window hw
  unfold leaveHold
  split
  · rename_i c _ hc
    exact timing_enterResync hc (h.half c hc) hw hcl
  · unfold TimingHas
    rw [endHold_config, endHold_it, endHold_su, hcl]
    exact .idle rfl h.half hw

theorem timing_passOn {c : Setup} {ch : Channel} {f : GroupFrame} {s : State} (hc : s.config = some c)
    (h : TimingHas s) : TimingHas (passOn c ch f s) := by
  unfold passOn
  split
  · simpa [TimingHas, receiveFrame_closing] using h
  · unfold offerTiming
    split
    · exact h
    · split
      · exact h
      · rename_i id elapsed _
        obtain ⟨hit, hcl⟩ := earlyClose_timing (c := c) (k := .adoption) h
        have hpos := nominalLength_pos c.lengthCode
        have hrun := timing_enterRun (id := id) (e := limitElapsed c elapsed)
          (s := earlyClose c .adoption s) (by simpa using hc) (h.half c hc) (by rw [hit]) hcl
          (by rw [limitElapsed_eq]; omega)
        simpa [TimingHas, adopt, receiveFrame_closing] using hrun
  · exact h
  · exact h

theorem timing_judgeFrame {c : Setup} {ch : Channel} {bytes : List Byte} {s : State}
    (hc : s.config = some c) (h : TimingHas s) : TimingHas (judgeFrame c ch bytes s) := by
  unfold judgeFrame
  split
  · simpa [TimingHas] using h
  · simpa [TimingHas] using h
  · exact h
  · exact h
  · simpa [TimingHas] using h
  · exact timing_passOn (by simpa using hc) (by simpa [TimingHas] using h)

/-- The configuration of a block that passes clamps W (R146). -/
theorem configSetup_half (b : List Byte) : WindowInHalf (configSetup b) := by
  have hpos := nominalLength_pos (fieldAt b 15 1)
  simp only [WindowInHalf, configSetup, clampWindow]
  constructor
  · split
    · exact le_refl _
    · split <;> omega
  · split
    · omega
    · split <;> omega

theorem timing_configAccepted {b : List Byte} {s : State} (hop : s.supply.op = .start)
    (hpass : configFailure b (checkedQ s) = none) (h : TimingHas s) : TimingHas (configAccepted b s) := by
  have hw := h.runOnly (by simp [hop])
  have hcl := h.closing_of_window hw
  unfold configAccepted leaveStart
  split
  · rename_i p hp
    exact timing_enterRun rfl (configSetup_half b) hw hcl (passed_position hpass hp)
  · exact timing_enterResync rfl (configSetup_half b) hw hcl

theorem timing_presetPosition {c : Setup} {id : IntervalId} {e : Nat} {s : State}
    (hc : s.config = some c) (he : e < nominalLength c.lengthCode) (h : TimingHas s) :
    TimingHas (presetPosition c id e s) := by
  obtain ⟨hit, hcl⟩ := earlyClose_timing (c := c) (k := .setDay) h
  have hw : (earlyClose c .setDay s).it.window = none := by rw [hit]
  have hc' : (earlyClose c .setDay s).config = some c := by simpa using hc
  unfold presetPosition
  dsimp only
  split
  · have hb := TimingFits.begin (id := id) (earlyClose c .setDay s).supply.op (h.half c hc) hw he
    unfold TimingHas
    rw [beginInterval_config, beginInterval_supply, beginInterval_su, hc', hcl]
    exact hb
  · exact timing_enterRun hc' (h.half c hc) hw hcl he

theorem timing_resyncFromRun {c : Setup} {s : State} (hc : s.config = some c) (h : TimingHas s) :
    TimingHas (resyncFromRun c s) := by
  obtain ⟨hit, _⟩ := earlyClose_timing (c := c) (k := .resync) h
  exact timing_enterResync (by simpa using hc) (h.half c hc) (congrArg IntervalTimer.window hit) rfl

theorem timing_resetPhase (r : ResetPhase) {s : State} (hc : s.config = none) (hop : s.supply.op = .start)
    (hw : s.it.window = none) (hcl : s.su.closing = none) : TimingHas (resetPhase r s) := by
  unfold TimingHas
  rw [resetPhase_config, resetPhase_it, resetPhase_su, hc, hcl]
  refine .idle ?_ (by simp) hw
  cases r with
  | held => rw [resetPhase, holdReset, hop]; rfl
  | ended pfw _ => cases pfw <;> rfl

/-- Every command keeps the laws of the interval and of the window. -/
theorem timing_after (i : Instr) {s : State} (h : TimingHas s) : TimingHas (after i s) := by
  have hd : TimingHas (takeDue s) := timing_takeDue h
  have hserved : ∀ f, TimingHas (f (takeDue s)) → TimingHas (served f (takeDue s)) :=
    fun f => served_cases hd
  cases i <;> simp only [after]
  all_goals first
    | simpa [TimingHas] using hd
    | simpa [TimingHas] using h
    | skip
  case sampleSetFrame =>
    unfold sampleArrives
    (repeat' split)
    · exact hd
    · exact hd
    · exact timing_takeFrame ‹_› hd
  case watchdogExpiry =>
    unfold watchdogExpires
    (repeat' split)
    · exact hd
    · exact timing_missingSet ‹_› hd
    · exact hd
  case countCompleteBoundary =>
    split
    · exact h
    · rename_i c hc
      split
      · rename_i hcc
        simp only [Bool.and_eq_true, beq_iff_eq] at hcc
        exact timing_countBoundary (by simpa using hc) (by simpa using hcc.2) (by simpa [TimingHas] using h)
      · exact h
  case unalignedBoundary =>
    split
    · exact h
    · rename_i c hc
      split
      · rename_i hcc
        simp only [Bool.and_eq_true, beq_iff_eq] at hcc
        exact timing_unalignedClose (by simpa using hc) (by simp [hcc.2]) (by simpa [TimingHas] using h)
      · exact h
  case windowClose =>
    split
    · exact h
    · exact timing_takeDueWindow ‹_› h
  case receptionStart ch =>
    unfold receptionStarts
    split
    · cases ch <;> exact TimingFits.other hd
    · exact hd
  case completeFrame ch bytes =>
    unfold frameCompletes
    split
    · exact hd
    · rename_i c hc
      (repeat' split)
      · simpa [TimingHas] using hd
      · exact timing_judgeFrame (s := setRecv ch .ready (takeDue s)) hc hd
      · exact hd
      · exact hd
  case holdEntry =>
    refine unlessHeld_cases hd ?_
    unfold pfwActive
    split
    · exact hd
    · exact timing_enterHold _ hd
  case pfwInactive => split <;> exact h
  case releaseTimer =>
    split
    · rename_i hop
      exact timing_holdIfWarned (timing_leaveHold hop.1 h)
    · exact h
  case powerOnReset r => exact timing_resetPhase r rfl rfl rfl rfl
  case resetn r => exact timing_resetPhase r (s := retainedPart (takeDue s)) rfl rfl rfl rfl
  case loadConfig block =>
    split
    · exact h
    · refine hserved _ ?_
      unfold loadConfigActs
      dsimp only
      (repeat' split)
      · exact hd
      · exact timing_holdIfWarned (timing_configAccepted ‹_› ‹_› hd)
      · exact hd
  case setDayPosition =>
    refine hserved _ ?_
    unfold setDayPositionActs
    dsimp only
    (repeat' split)
    · exact hd
    · exact hd
    · exact hd
    · rename_i hpos
      exact timing_presetPosition ‹_› (by omega) hd
  case resync =>
    refine hserved _ ?_
    unfold resyncActs
    (repeat' split)
    · exact hd
    · exact timing_resyncFromRun ‹_› hd
    · exact hd
  case pfwActiveInHold => split <;> exact h
  case discardedTransaction csn => cases csn <;> simpa [TimingHas] using h

/-- Settles O15. -/
theorem intervalAndWindowLawsAreKept : Obligations.IntervalAndWindowLawsAreKept := by
  intro s t hs hst
  rw [timingLaws_iff] at hs ⊢
  exact kept_of_after (fun _ _ h => h) (fun i _ h => timing_after i h) s t hs hst

end Sys2Proof.Machine
end

section
/-! SUPPORT. The early closes of the host's commands and of HOLD entry: SET_DAY_POSITION, RESYNC and
HOLD_ENTRY as record updates. -/

namespace Sys2Proof.Machine

/-! ## A row of the host that acts -/

/-- Where nothing is due and the port serves, a row of the host is what its command does (R160). -/
theorem served_takeDue {f : State → State} {s : State} (hn : nothingDue s = true)
    (hs : s.port.serving = true) : served f (takeDue s) = f s := by
  rw [takeDue_of_nothingDue hn, served, if_pos hs]

theorem respond_eq_answered (i : Instr) (r : ResultCode) (data : List Byte) (s : State) :
    respond i r data s = answered ((mosi i).getD []) (resultByte r) data s := rfl

/-! ## The interval that is closed early -/

/-- The summary over the own net alone (R98, R101). -/
theorem settledSummary_alone (net : Int) :
    settledSummary net [] = ⟨net.toNat, (-net).toNat, if net < 0 then 1 else 0, false⟩ := by
  by_cases h : net < 0 <;> simp [settledSummary, importSum, exportSum, exporterCount, h]

/-- What an early close writes to the limiter and the summary (R98, R101, R102). -/
theorem soloEffects_eq (c : Setup) (op : OpState) (net : Int) (s : State) :
    soloEffects c op net s =
      { s with
        el := if op = .run then { s.el with pendingCap := some c.baseCap } else s.el
        su :=
          { s.su with
            summary :=
              if op = .run then ⟨net.toNat, (-net).toNat, if net < 0 then 1 else 0, false⟩
              else s.su.summary } } := by
  unfold soloEffects
  split
  · rw [settledSummary_alone]
    rfl
  · rfl

/-- An early close, once the open block and an open window are closed: the record of the interval, the
counters and early slots cleared, and in RUN the base cap and the summary (R36, R85, R98, R101, R102). -/
theorem earlyClose_eq {c : Setup} {cause : EarlyCause} {s s1 : State} {net : Int}
    (hs1 : settleOpenWindow c (closeOpenBlock c (cause != .hold) s) = s1)
    (hnet : (s1.rb.impQuanta : Int) - s1.rb.expQuanta = net) :
    earlyClose c cause s =
      { putRecord
          (earlyRecord c s1 (cause == .hold)
            (s.supply.op == .resync || cause == .resync || cause == .adoption) (s.supply.op == .run))
          s1 with
        rb := { s1.rb with impQuanta := 0, expQuanta := 0, saturated := false }
        ne := { s1.ne with heldSeen := false, faultSeen := false }
        el := if s.supply.op = .run then { s1.el with pendingCap := some c.baseCap } else s1.el
        su :=
          { s1.su with
            peers := s1.su.peers.map fun p => { p with early := none }
            summary :=
              if s.supply.op = .run then ⟨net.toNat, (-net).toNat, if net < 0 then 1 else 0, false⟩
              else s1.su.summary } } := by
  subst hs1 hnet
  simp only [earlyClose, loneRecord_early, soloEffects_eq]
  simp [clearInterval, emptyEarly, takeFigures]

/-- Clearing the entries empties their early slots too (R81). -/
theorem clearPeers_emptyEarly (ps : List PeerEntry) :
    clearPeers (ps.map fun p => { p with early := none })
      = ps.map fun p => ⟨p.station, .absent, none, none, 0, false, none, none⟩ := by
  simp only [clearPeers, List.map_map]
  rfl

/-! ## SET_DAY_POSITION -/

/-- Settles O31. -/
theorem setDayPosition : Obligations.SetDayPosition := by
  intro s c day iod elapsed hn hc hl hserve taken s1 net e it rb ne peers el
  have hexec : exec (.setDayPosition day iod elapsed) s = .next (setDayPositionActs day iod elapsed s) := by
    rw [exec_after, after, served_takeDue hn hserve]
  have htaken : (mosi (.setDayPosition day iod elapsed)).getD [] = taken := rfl
  have hclose := earlyClose_eq (c := c) (cause := .setDay) (s := s) (s1 := s1) (net := net) rfl rfl
  have hsupply : s1.supply = s.supply := by simp [s1]
  clear_value s1 net
  simp only [hexec, setDayPositionActs, hc, hl, Bool.not_true, Bool.false_eq_true, if_false,
    respond_eq_answered, htaken]
  refine ⟨fun hbad => by rw [if_pos hbad]; rfl, fun hiod he => ?_⟩
  have hok : ¬ (perDay c.lengthCode ≤ iod.toNat ∨ nominalLength c.lengthCode ≤ elapsed.toNat) := by omega
  rw [if_neg hok]
  refine ⟨fun hop => ?_, fun hop => ?_⟩
  · simp only [presetPosition, hclose, hop, if_true, beginInterval, startFlags, putRecord_it]
    rfl
  · simp only [presetPosition, hclose, hop, reduceCtorEq, if_false, enterRun, setOp, beginInterval, startFlags,
      putRecord_it, putRecord_line, putRecord_supply, hsupply]
    rfl

/-! ## RESYNC -/

/-- Settles O32. -/
theorem resyncCommand : Obligations.ResyncCommand := by
  intro s c hn hc hop hserve s1 net next
  have hexec : exec .resync s = .next (resyncActs s) := by
    rw [exec_after, after, served_takeDue hn hserve]
  have hclose := earlyClose_eq (c := c) (cause := .resync) (s := s) (s1 := s1) (net := net) rfl rfl
  have hsupply : s1.supply = s.supply := by simp [s1]
  clear_value s1 net
  simp only [hexec, resyncActs, hc, hop, if_true, respond_eq_answered, resyncFromRun, hclose, enterResync, setOp,
    beginInterval, startFlags, clearUnit, clearPeers_emptyEarly, handCap, putRecord_it, putRecord_line,
    putRecord_supply, hsupply]
  rfl

/-! ## HOLD_ENTRY -/

/-- Where nothing is due, HOLD_ENTRY finds PFW active (R149). -/
theorem exec_holdEntry {s : State} (hn : nothingDue s = true) (hheld : s.supply.resetHeld = false)
    (still : Bool) : exec (.holdEntry still) s = .next (pfwActive still s) := by
  rw [exec_after, after, takeDue_of_nothingDue hn, unlessHeld, if_neg (by simp [hheld])]

/-- Settles O51. -/
theorem holdEntry : Obligations.HoldEntry := by
  intro s still hn hheld silent held
  rw [exec_holdEntry hn hheld]
  refine ⟨fun hop => by rw [pfwActive, if_pos hop], fun hop => ?_, fun c hc hl => ?_⟩
  · have hclose : holdClose s = s := by
      unfold holdClose
      split
      · rfl
      · simp [isLive, hop, opLive]
    simp only [pfwActive, enterHold, hclose, hop]
    rfl
  · intro run s1 net r
    have hclose := earlyClose_eq (c := c) (cause := .hold) (s := s) (s1 := s1) (net := net) rfl rfl
    have hsupply : s1.supply = s.supply := by simp [s1]
    clear_value s1 net
    rcases (isLive_iff s).mp hl with hop | hop <;>
      simp only [pfwActive, enterHold, holdClose, hc, hl, hclose, hop, if_true, putRecord_supply, putRecord_it,
        putRecord_line, clearUnit, clearPeers_emptyEarly, hsupply, run, r] <;>
      rfl

end Sys2Proof.Machine
end

section
/-! SUPPORT. The two count-complete boundaries and the window close as record updates. -/

namespace Sys2Proof.Machine

/-! ## COUNT_COMPLETE_BOUNDARY -/

/-- A boundary row with its block still open is the row after that block's close (R20, R31). -/
theorem takeDueBlock_closeBlock {c : Setup} {s : State} (h : blockDue s = true) :
    takeDueBlock c (closeBlock c true s) = takeDueBlock c s := by
  rw [← takeDueBlock_of_due (c := c) h, takeDueBlock_idem]

theorem countComplete_closeBlock (c : Setup) (j : Bool) (s : State) :
    countComplete (closeBlock c j s) = countComplete s := rfl

/-- The presence counter as it is stepped, and the PRESENCE handed over where it was 1 (R43). -/
theorem pacePresence_eq (c : Setup) (s : State) :
    pacePresence c s =
      { s with
        it := { s.it with presence := if s.it.presence = 1 then c.presence else s.it.presence - 1 }
        line := if s.it.presence = 1 then handPresence (isLive s) s.it.id s.line else s.line } := by
  unfold pacePresence
  split <;> rfl

/-- A count-complete boundary in RUN (R34, R43, R49, R57, R88, R89): the figures taken, the window opened, the
next interval begun, the REPORT and then a due PRESENCE handed over. -/
theorem countBoundary_eq (c : Setup) (s : State) :
    countBoundary c s =
      let next := succId (perDay c.lengthCode) s.it.id
      let withReport := handReport (isLive s) s.it.id (takeFigures false s).net s.line
      { s with
        it :=
          { s.it with
            id := next
            elapsed := 0
            startPos := 0
            trim := 0
            length := some (nominalLength c.lengthCode)
            window := some s.it.id
            presence := if s.it.presence = 1 then c.presence else s.it.presence - 1 }
        rb :=
          { s.rb with
            band := bandFor c.calendar next.iod, impQuanta := 0, expQuanta := 0, saturated := false }
        ne := { s.ne with heldSeen := false, faultSeen := false }
        el := startFlags s.el
        su := openWindow (takeFigures false s) s.su
        line :=
          if s.it.presence = 1 then handPresence (isLive s) next withReport else withReport } := by
  simp only [countBoundary, pacePresence_eq]
  rfl

/-- COUNT_COMPLETE_BOUNDARY of a complete interval in RUN (R34). -/
theorem exec_countCompleteBoundary {s : State} {c : Setup} (hc : s.config = some c)
    (hcc : countComplete s = true) (hop : s.supply.op = .run) :
    exec .countCompleteBoundary s = .next (countBoundary c (takeDueBlock c s)) := by
  simp [exec_after, after, hc, hcc, hop]

/-- UNALIGNED_BOUNDARY of a complete interval in RESYNC (R35). -/
theorem exec_unalignedBoundary {s : State} {c : Setup} (hc : s.config = some c)
    (hcc : countComplete s = true) (hop : s.supply.op = .resync) :
    exec .unalignedBoundary s = .next (unalignedClose c (takeDueBlock c s)) := by
  simp [exec_after, after, hc, hcc, hop]

/-! ## UNALIGNED_BOUNDARY -/

/-- What a record does to the state does not depend on the interval's counters, flags and timer. -/
theorem putRecord_with_interval (r : Record) (s : State) (it : IntervalTimer) (rb : RegisterBank)
    (ne : NettingEngine) (el : Limiter) :
    putRecord r { s with it := it, rb := rb, ne := ne, el := el }
      = { putRecord r s with it := it, rb := rb, ne := ne, el := el } := by
  unfold putRecord
  dsimp only
  split <;> rfl

/-- The record of an interval closed without a window: the own net alone (R99, R102). -/
theorem loneRecord_eq (c : Setup) (f : Figures) (k : Marks) :
    loneRecord c f k =
      { firstId := f.id, lastId := f.id, band := f.band, flags := recordFlags f k, mergeCount := 1,
        heard := 1#16 <<< c.station, expected := 0, trim := f.trim, impQuanta := f.impQuanta,
        expQuanta := f.expQuanta, share := 0, m := f.net.toNat, x := (-f.net).toNat } := by
  simp [loneRecord, buildRecord, importSum, exportSum, stationBit]

/-! ## An entry of the peer view as a window opens -/

/-- Counted is set for a PRESENT peer and the early slot emptied; only the closing slot may change besides (R80,
R87). -/
theorem openPeer_frame (length : Nat) (p : PeerEntry) :
    (openPeer length p).counted = (p.state == .present) ∧ (openPeer length p).early = none
      ∧ openPeer length p =
          { p with
            counted := (openPeer length p).counted
            early := (openPeer length p).early
            closing := (openPeer length p).closing } := by
  unfold openPeer
  dsimp only
  split
  · exact ⟨rfl, rfl, rfl⟩
  · split <;> exact ⟨rfl, rfl, rfl⟩

/-- A filled early slot is resolved where its offset is plausible, and MISALIGNED beyond (R87). -/
theorem openPeer_closing {length : Nat} {p : PeerEntry} {e : EarlySlot} (he : p.early = some e) :
    ((earlyOffset length e).natAbs ≤ 4096 →
        (openPeer length p).closing = some ⟨e.net, earlyOffset length e⟩
          ∧ earlyImplausible length p = false)
      ∧ (4096 < (earlyOffset length e).natAbs →
        (openPeer length p).closing = p.closing ∧ earlyImplausible length p = true) := by
  refine ⟨fun hle => ?_, fun hgt => ?_⟩
  · have hp : plausible (earlyOffset length e) = true := by simpa [plausible] using hle
    simp [openPeer, earlyImplausible, he, hp]
  · have hp : plausible (earlyOffset length e) = false := by simpa [plausible] using hgt
    simp [openPeer, earlyImplausible, he, hp]

/-- Settles O28. -/
theorem countCompleteBoundaries : Obligations.CountCompleteBoundaries := by
  refine ⟨fun s c hc => ⟨fun h => ?_, fun hcc hop hb => ?_, fun hcc hop hb => ?_⟩,
    fun s c hc => ⟨fun h => ?_, fun hcc hop hb => ?_, fun hcc hop hb => ?_⟩, fun length p => ?_⟩
  · rw [exec_after]
    rcases h with h | h <;> simp [after, hc, h]
  · rw [exec_countCompleteBoundary hc hcc hop,
      exec_countCompleteBoundary (c := c) (by simpa using hc) (by rwa [countComplete_closeBlock])
        (by simpa using hop),
      takeDueBlock_closeBlock hb]
  · intro net f next withReport
    have hl : isLive s = true := (isLive_iff s).mpr (.inl hop)
    rw [exec_countCompleteBoundary hc hcc hop, takeDueBlock_of_not_due hb, countBoundary_eq, hl]
    rfl
  · rw [exec_after]
    rcases h with h | h <;> simp [after, hc, h]
  · rw [exec_unalignedBoundary hc hcc hop,
      exec_unalignedBoundary (c := c) (by simpa using hc) (by rwa [countComplete_closeBlock])
        (by simpa using hop),
      takeDueBlock_closeBlock hb]
  · intro net f k r
    rw [exec_unalignedBoundary hc hcc hop, takeDueBlock_of_not_due hb, putRecord_with_interval]
    simp only [unalignedClose, loneRecord_eq, clearInterval, beginInterval, putRecord_it, putRecord_rb,
      putRecord_ne, putRecord_el, startFlags]
    rfl
  · intro q offset
    obtain ⟨hcounted, hearly, hframe⟩ := openPeer_frame length p
    refine ⟨by simp [q, hcounted], hearly, fun he => ?_, fun e he => openPeer_closing he, hframe⟩
    simp [q, openPeer, earlyImplausible, he]

end Sys2Proof.Machine
end

section
/-! SUPPORT. The window close: the settlement's figures in the words of R91 to R99, and the line. -/

namespace Sys2Proof.Machine

/-! ## The figures of a settlement -/

/-- The own share is 0 where no peer was heard or the own net is 0 (R93). -/
theorem matchedShare_eq (own : Int) (nets : List Int) (m x : Nat) :
    matchedShare own nets.length m x =
      if nets = [] ∨ own = 0 then 0
      else if 0 < own then own.toNat * min m x / m else (-own).toNat * min m x / x := by
  simp only [matchedShare, List.length_eq_zero_iff]
  by_cases hnets : nets = []
  · simp [hnets]
  · rcases lt_trichotomy own 0 with h | h | h
    · simp [hnets, h, h.ne, h.le.not_gt]
    · simp [hnets, h]
    · simp [hnets, h, h.ne']

/-- The streak after a settlement: 0 once a peer is heard, one more after a MISALIGNED report alone, and 0
again at three (R96). -/
theorem nextStreak_eq (nets : List Int) (misaligned : Bool) (streak : Nat) :
    nextStreak nets.length misaligned streak =
      if nets ≠ [] then 0
      else if misaligned then (if 2 ≤ streak then 0 else streak + 1)
      else streak := by
  have hthree : 3 ≤ streak + 1 ↔ 2 ≤ streak := by omega
  simp only [nextStreak, ne_eq, List.length_eq_zero_iff, hthree]

theorem streakFires_eq (nets : List Int) (misaligned : Bool) (streak : Nat) :
    streakFires nets.length misaligned streak = decide (nets = [] ∧ misaligned = true ∧ 2 ≤ streak) := by
  have hthree : 3 ≤ streak + 1 ↔ 2 ≤ streak := by omega
  simp [streakFires, hthree, Bool.beq_eq_decide_eq, Bool.and_assoc]

/-- The heard mask gathers the bits of the heard stations onto the own bit (R94). -/
theorem heardMask_eq (own : Nat) (ps : List PeerEntry) :
    heardMask own ps =
      ((ps.filter fun p => p.closing.isSome).filterMap (·.station)).foldl (fun w n => w ||| 1#16 <<< n)
        (1#16 <<< own) := by
  simp only [heardMask, List.foldl_map]
  rfl

theorem isEmpty_eq_decide {α : Type} [DecidableEq α] (l : List α) : l.isEmpty = decide (l = []) := by
  cases l <;> simp

/-- The flags by which a settlement marks its record (R94, R100). -/
theorem windowMarks_eq (nets : List Int) (expected : Nat) (outcome : ReportOutcome) (barred : Bool) :
    ({ supply := false, unaligned := false, solo := nets.isEmpty
       incomplete := decide (nets.length < expected)
       txFailed := !barred && (outcome == .notSent || outcome == .pending), listenOnly := barred } : Marks)
      = { supply := false, unaligned := false, solo := decide (nets = [])
          incomplete := decide (nets.length < expected)
          txFailed := !barred && decide (outcome = .notSent ∨ outcome = .pending), listenOnly := barred } := by
  simp [isEmpty_eq_decide, Bool.beq_eq_decide_eq]

/-- A window that closes as its count is reached: the settlement, and then its trim (R38, R39). -/
theorem windowCloses_eq {c : Setup} {s : State} {f : Figures} (hf : s.su.closing = some f) :
    windowCloses c s =
      let trim := trimOf (heardOffsets s.su.peers)
      putRecord (windowRecord c f s.su s.line.outcome s.line.barred)
        { s with
          it :=
            { s.it with
              window := none
              trim := trim
              length := some ((nominalLength c.lengthCode : Int) + trim).toNat }
          line := lineWindowClose (isLive s) s.line
          su := settleUnit f.net s.su
          el := handCap (settledCap c f.net (heardNets s.su.peers)) s.el
          alerts :=
            raiseIf (streakFires (heardNets s.su.peers).length s.su.misaligned s.su.streak) .alignment
              s.alerts } := by
  simp only [windowCloses, closeWindow, hf, applyTrim, settleWindow, ← putRecord_with_it, putRecord_it]

/-! ## The line at a window close -/

/-- Entries that are all PRESENCE leave the report outcome as it is (R60). -/
theorem foldl_outcomeOnLeave_presence {es : List Entry} (h : ∀ e ∈ es, e.kind = .presence)
    (o : ReportOutcome) : es.foldl outcomeOnLeave o = o := by
  induction es generalizing o with
  | nil => rfl
  | cons e es ih =>
    have he : outcomeOnLeave o e = o := by simp [outcomeOnLeave, h e (List.mem_cons_self ..)]
    rw [List.foldl_cons, he]
    exact ih (fun x hx => h x (List.mem_cons_of_mem _ hx)) o

/-- Judging a list of PRESENCE entries leaves the report outcome as it is (R60). -/
theorem judgeLine_outcome_presence (live : Bool) {l : Line} (h : ∀ e ∈ l.sendList, e.kind = .presence) :
    (judgeLine live l).outcome = l.outcome := by
  show (leaveEntries (lapseChans l)).outcome = l.outcome
  unfold leaveEntries
  split
  · exact foldl_outcomeOnLeave_presence (fun e he => h e (List.mem_of_mem_filter he)) _
  · rfl

/-- A channel that is IDLE before judging is IDLE or in DEFER after it (R59, R62). -/
theorem judgeLine_access_of_idle (live : Bool) {l : Line} {ch : Channel}
    (h : (chanOf l ch).access = .idle) : (chanOf (judgeLine live l) ch).access ≠ .sending := by
  have hlapse : lapseChan (inSendingSet l ch) (chanOf l ch) = chanOf l ch := by
    simp [lapseChan, h]
  have hfree : freeChan (remaining l) (chanOf l ch) = chanOf l ch := by simp [freeChan, h]
  rw [judgeLine_chan, hlapse, hfree]
  rcases commitChan_cases (live && !l.barred && inSendingSet l ch) ch (remaining l) (chanOf l ch) with
    ⟨he, _⟩ | ⟨_, _, _, _, he⟩
  · simp [he, h]
  · simp [he, toDefer]

/-- The entries that R60 leaves: PENDING on a channel of the sending set, or all while it is empty. -/
theorem remaining_eq (l : Line) :
    remaining l = l.sendList.filter fun e =>
      !(inSendingSet l .l || inSendingSet l .h) || (inSendingSet l .l && e.statusL == .pending)
        || (inSendingSet l .h && e.statusH == .pending) := by
  unfold remaining entryDone
  cases inSendingSet l .l <;> cases inSendingSet l .h <;> simp [bne]

/-- A copy in SENDING of a REPORT of the list. -/
def sendsReport (es : List Entry) (k : Chan) : Bool :=
  k.access == .sending && es.any fun e => e.kind == .report && k.committed == some e.serial

/-- Such a copy is cut, its attempt count and error counter unchanged; another channel stays as it is (R61). -/
theorem cutReport_eq (es : List Entry) (k : Chan) :
    cutReport es k =
      if sendsReport es k then
        { k with
          access := .idle, committed := none, lapsed := false, copy := [], recv := .waitQuiet
          gapTimer := none, backoffTimer := none, echoTimer := none, jabberTimer := none }
      else k := by
  simp only [cutReport, inList, List.any_filter, cutChan, sendsReport, Bool.and_eq_true, beq_iff_eq]
  by_cases ha : k.access = .sending
  · simp only [ha, true_and, if_true]
    rfl
  · simp [ha]

theorem cutReport_state (es : List Entry) (k : Chan) :
    (cutReport es k).state = k.state ∧ (cutReport es k).errors = k.errors := by
  rw [cutReport_eq]
  split <;> exact ⟨rfl, rfl⟩

/-- The line at a window close before what follows at once (R61, R73). -/
def windowLine (l : Line) : Line :=
  { l with l := cutReport l.sendList l.l, h := cutReport l.sendList l.h,
           sendList := l.sendList.filter fun e => e.kind == .presence, outcome := .noReport, filter := [] }

theorem lineWindowClose_eq (live : Bool) (l : Line) :
    lineWindowClose live l = judgeLine live (windowLine l) := by
  have hpres : (l.sendList.filter fun e => e.kind != .report)
      = l.sendList.filter fun e => e.kind == .presence :=
    List.filter_congr fun e _ => by cases e.kind <;> rfl
  rw [lineWindowClose, hpres]
  rfl

theorem windowLine_chan (l : Line) (ch : Channel) :
    chanOf (windowLine l) ch = cutReport l.sendList (chanOf l ch) := by cases ch <;> rfl

theorem windowLine_inSendingSet (l : Line) (ch : Channel) :
    inSendingSet (windowLine l) ch = inSendingSet l ch :=
  inSendingSet_congr (cutReport_state l.sendList l.l).1 (cutReport_state l.sendList l.h).1 ch

theorem windowLine_presence (l : Line) : ∀ e ∈ (windowLine l).sendList, e.kind = .presence :=
  fun e he => by simpa using List.of_mem_filter he

/-- Settles O29. -/
theorem windowClose : Obligations.WindowClose := by
  refine ⟨fun s c hc => ⟨fun hdue => ?_, fun f hdue hf => ?_⟩, fun live l => ?_⟩
  · simp [exec_windowClose hc, takeDueWindow, hdue]
  · intro peers nets m x exporters expected share bonus cap k r fires trim
    have hl : isLive s = true := ((windowDue_iff c s).mp hdue).1
    have hr : windowRecord c f s.su s.line.outcome s.line.barred = r := by
      simp only [windowRecord, buildRecord, windowMarks_eq, matchedShare_eq, heardMask_eq]
      rfl
    have hsu : settleUnit f.net s.su =
        { peers := s.su.peers.map settlePeer, closing := none, misaligned := false
          streak :=
            if nets ≠ [] then 0
            else if s.su.misaligned then (if 2 ≤ s.su.streak then 0 else s.su.streak + 1)
            else s.su.streak
          summary := ⟨m, x, exporters, decide (nets ≠ [])⟩ } := by
      simp only [settleUnit, nextStreak_eq, settledSummary, isEmpty_eq_decide, ← decide_not]
      rfl
    rw [exec_windowClose hc, takeDueWindow_of_due hdue, windowCloses_eq hf, hr, hl, hsu, streakFires_eq]
    rfl
  · intro t presences cut wasCut
    have ht : t = judgeLine live (windowLine l) := lineWindowClose_eq live l
    have hlist : t.sendList = remaining (windowLine l) := by rw [ht, judgeLine_sendList]
    rw [ht] at hlist ⊢
    refine ⟨fun e he => ?_, ?_, judgeLine_outcome_presence live (windowLine_presence l), by simp [windowLine],
      by simp [windowLine], by simp [windowLine], fun ch => ⟨?_, ?_, fun hcut => ⟨?_, ?_⟩⟩, ?_⟩
    · exact windowLine_presence l e ((remaining_sublist _).subset (hlist ▸ he))
    · rw [hlist, remaining_eq]
      simp only [windowLine_inSendingSet]
      rfl
    · rw [judgeLine_state, windowLine_chan]
      exact (cutReport_state _ _).1
    · rw [judgeLine_errors, windowLine_chan]
      exact (cutReport_state _ _).2
    · refine judgeLine_access_of_idle live ?_
      rw [windowLine_chan, cutReport_eq, if_pos (show sendsReport _ _ = true from hcut)]
    · rw [judgeLine_recv, windowLine_chan, cutReport_eq, if_pos (show sendsReport _ _ = true from hcut)]
    · simp only [windowLine, cutReport_eq]
      rfl

end Sys2Proof.Machine
end

section
/-! SUPPORT. Interval IDs, the figures of the length codes, and the tariff calendar. -/

namespace Sys2Proof.Machine

/-- A day of any length code lasts 1440 minutes (R32). -/
theorem nominalLength_mul_perDay {code : Nat} (h : code ≤ 5) :
    nominalLength code * perDay code = 1440 * 192000 := by
  interval_cases code <;> rfl

/-- An interval of full blocks is 64 sets each (R32, R97). -/
theorem nominalLength_eq_fullBlocks (code : Nat) : nominalLength code = 64 * fullBlocks code := by
  unfold nominalLength fullBlocks
  omega

/-- In an ascending list of switch points the one that none passes is the last (R46). -/
theorem getLast?_of_ascending {cal : List SwitchPoint} (hasc : cal.Pairwise fun a b => a.iod < b.iod)
    {p : SwitchPoint} (hp : p ∈ cal) (hmax : ∀ q ∈ cal, q.iod ≤ p.iod) : cal.getLast? = some p := by
  rcases List.eq_nil_or_concat cal with rfl | ⟨init, last, rfl⟩
  · simp at hp
  · rw [List.concat_eq_append] at *
    obtain ⟨_, _, hlt⟩ := List.pairwise_append.mp hasc
    have hle := hmax last (by simp)
    rcases List.mem_append.mp hp with hinit | hlast
    · have := hlt p hinit last (by simp)
      omega
    · simp [List.mem_singleton.mp hlast]

/-- Settles O27. -/
theorem intervalIdsAndBands : Obligations.IntervalIdsAndBands := by
  refine ⟨fun code day iod hcode hday hiod => ?_, by decide, by decide, fun cal i hasc => ⟨?_, ?_, ?_⟩⟩
  · intro n
    have hd := perDay_ge code
    have hmid : iod + 1 < perDay code → n = ⟨day, iod + 1⟩ := fun h => if_pos h
    have hend : iod + 1 = perDay code → n = ⟨(day + 1) % 65536, 0⟩ := fun h => if_neg (by simp [h])
    have hlegal : n.day < 65536 ∧ n.iod < perDay code := by
      rcases Nat.lt_or_eq_of_le (Nat.succ_le_of_lt hiod) with h | h
      · rw [hmid h]
        exact ⟨hday, h⟩
      · rw [hend h]
        exact ⟨Nat.mod_lt _ (by decide), show 0 < perDay code by omega⟩
    exact ⟨hmid, hend, hlegal.1, hlegal.2, (predId_succId (by omega) hday hiod).1,
      nominalLength_mul_perDay hcode, nominalLength_eq_fullBlocks code⟩
  · rintro rfl
    rfl
  · intro p hp hle hmax
    have hlast : (cal.filter fun q => decide (q.iod ≤ i)).getLast? = some p := by
      refine getLast?_of_ascending (hasc.filter _) (List.mem_filter.mpr ⟨hp, by simpa using hle⟩) fun q hq => ?_
      obtain ⟨hmem, hqi⟩ := List.mem_filter.mp hq
      exact hmax q hmem (by simpa using hqi)
    simp only [bandFor, hlast]
  · intro p hp hafter
    have hnone : (cal.filter fun q => decide (q.iod ≤ i)) = [] :=
      List.filter_eq_nil_iff.mpr fun q hq => by simpa using (hafter q hq).1
    have hlast := getLast?_of_ascending hasc hp fun q hq => (hafter q hq).2
    simp only [bandFor, hnone, List.getLast?_nil, hlast]

end Sys2Proof.Machine
end

section
/-! SUPPORT. The group line of this family: receptions that begin and fail, and the end of BACKOFF. -/

namespace Sys2Proof.Machine

/-! ## Receptions -/

/-- Counting against a channel that is not OFF, field by field (R72). -/
theorem errorUp_eq {c : Chan} (h : c.state ≠ .off) :
    errorUp c =
      { c with
        errors := min 255 (c.errors + 1)
        state := if decide (c.state = .good ∧ 32 ≤ c.errors + 1) then .degraded else c.state } := by
  simp [errorUp, h]

/-- A channel becomes DEGRADED exactly where it is GOOD and its counter reaches 32 (R72). -/
theorem becameDegraded_errorUp {c : Chan} (h : c.state ≠ .off) :
    becameDegraded c (errorUp c) = decide (c.state = .good ∧ 32 ≤ c.errors + 1) := by
  rw [errorUp_eq h, becameDegraded]
  by_cases hd : c.state = .good ∧ 32 ≤ c.errors + 1
  · simp [hd.1, hd]
  · rw [decide_eq_false hd]
    simp

/-- A reception that fails on a channel that is not OFF: its receive state, one count against the channel with
what follows on the line, and CHANNEL where it becomes DEGRADED (R59, R70, R72). -/
theorem countError_setRecv {s : State} {ch : Channel} (r : RecvState)
    (hoff : (chanOf s.line ch).state ≠ .off) :
    countError ch (setRecv ch r s) =
      { s with
        line :=
          judgeLine (isLive s)
            (setChan s.line ch
              { chanOf s.line ch with
                recv := r
                errors := min 255 ((chanOf s.line ch).errors + 1)
                state :=
                  if decide ((chanOf s.line ch).state = .good ∧ 32 ≤ (chanOf s.line ch).errors + 1) then
                    .degraded
                  else (chanOf s.line ch).state })
        alerts :=
          if decide ((chanOf s.line ch).state = .good ∧ 32 ≤ (chanOf s.line ch).errors + 1) then
            { s.alerts with latches := s.alerts.latches ||| 0x20#9 }
          else s.alerts } := by
  have hline : (setRecv ch r s).line = setChan s.line ch { chanOf s.line ch with recv := r } := rfl
  simp only [countError, hline, lineErrorUp, chanOf_setChan_same, setChan_setChan, setRecv_isLive]
  rw [becameDegraded_errorUp (c := { chanOf s.line ch with recv := r }) hoff,
    errorUp_eq (c := { chanOf s.line ch with recv := r }) hoff]
  rfl

/-- A frame whose CRC-16 fails, or that is MALFORMED, counts against its channel (R71, R72). -/
theorem judgeFrame_failed {c : Setup} {ch : Channel} {bytes : List Byte} (s : State)
    (h : frameCheck bytes = false ∨ frameMalformed (readFrame bytes) = true) :
    judgeFrame c ch bytes s = countError ch s := by
  unfold judgeFrame frameOutcome
  by_cases hcrc : frameCheck bytes = true
  · have hm := h.resolve_left (by simp [hcrc])
    simp [hcrc, hm]
  · simp [hcrc]

/-- Settles O39. -/
theorem receptionsBeginAndFail : Obligations.ReceptionsBeginAndFail := by
  refine ⟨fun s ch hn => ?_, fun s ch hn hoff => ?_, fun f => ?_⟩
  · intro k capture
    simp only [exec_after, after, takeDue_of_nothingDue hn, receptionStarts, becomesReady]
    refine ⟨fun hr => ?_, fun hr => by rw [if_neg hr], fun hr ha => ?_, fun hw hd => ?_⟩
    · rw [if_pos hr]
      cases ch <;> rfl
    · rw [if_pos ⟨hr, ha⟩]
      rfl
    · rw [if_neg (by tauto)]
  · intro k degrades counted
    have hcount : ∀ r, countError ch (setRecv ch r s) = counted r := fun r => countError_setRecv r hoff
    simp only [exec_after, after, takeDue_of_nothingDue hn, malformedEnds, timeoutEnds, hcount]
    refine ⟨fun hr => ?_, fun hr => ?_⟩
    · simp only [frameCompletes, show (chanOf s.line ch).recv = .receiving from hr, if_true]
      refine ⟨trivial, trivial, fun c bytes hc hlen hbad => ?_⟩
      simp only [hc, hlen, if_true, judgeFrame_failed _ hbad, hcount]
    · have hr' : ¬ (chanOf s.line ch).recv = .receiving := hr
      refine ⟨by rw [if_neg hr'], by rw [if_neg hr'], fun bytes => ?_⟩
      unfold frameCompletes
      split
      · rfl
      · rw [if_neg hr']
  · unfold frameMalformed
    cases f.body <;> simp [or_assoc]

/-! ## The end of BACKOFF -/

/-- BACKOFF_END of a channel in BACKOFF with CS inactive, committed to an entry of the list (R56, R64, R65). -/
theorem backoffEnds_committed {s : State} {c : Setup} {ch : Channel} {e : Entry} (hc : s.config = some c)
    (hb : (chanOf s.line ch).access = .backoff) (hcs : (chanOf s.line ch).cs = false)
    (hcom : (chanOf s.line ch).committed = some e.serial)
    (he : (s.line.sendList.find? fun x => x.serial == e.serial) = some e) :
    backoffEnds ch s =
      if e.kind = .report ∧ 65535 < s.it.elapsed then
        { s with line := dropLateCopy (isLive s) ch s.line }
      else
        { s with
          line :=
            setChan s.line ch
              (beginSending (copyBytes c s.supply.op s.it e) (chanOf s.line ch)) } := by
  have hfind : (s.line.sendList.find? fun x => (chanOf s.line ch).committed == some x.serial) = some e := by
    rw [← he, hcom]
    congr 1
    funext x
    simp [Bool.beq_eq_decide_eq, eq_comm]
  simp only [backoffEnds, hc, hb, hcs, and_self, if_true, hfind]

/-- The ten bit times of a byte (R52): the start bit, the data bits and the stop level, at which TXD then
rests. -/
theorem serialBits_getD (b : Byte) :
    (serialBits b).getD 0 true = false ∧ (∀ i, i < 8 → (serialBits b).getD (i + 1) true = b.getLsbD i)
      ∧ ∀ n, 9 ≤ n → (serialBits b).getD n true = true := by
  have hlen : (serialBits b).length = 10 := by simp [serialBits]
  refine ⟨rfl, fun i hi => ?_, fun n hn => ?_⟩
  · interval_cases i <;> rfl
  · rcases Nat.eq_or_lt_of_le hn with rfl | hlt
    · rfl
    · exact List.getD_eq_default _ _ (by omega)

/-- The data bits of a byte, the least significant first, give the byte back (R52). -/
theorem byteOfBits_dataBits (b : Byte) : byteOfBits ((List.range 8).map b.getLsbD) = b :=
  byteMsbFirst_bits b

/-- Settles O44. -/
theorem backoffEndBeginsSending : Obligations.BackoffEndBeginsSending := by
  refine ⟨fun s c ch e hn hc => ?_, fun s ch => ?_, fun b => ?_⟩
  · intro k hb hcs hcom he bytes
    have hexec : exec (.backoffEnd ch) s = .next (backoffEnds ch s) := by
      rw [exec_after, after, takeDue_of_nothingDue hn]
    rw [hexec, backoffEnds_committed hc hb hcs hcom he]
    refine ⟨fun hin => ?_, fun hk hlate => ?_⟩
    · have hsend : ¬ (e.kind = .report ∧ 65535 < s.it.elapsed) := by
        rintro ⟨hk, hlt⟩
        rcases hin with h | h
        · rw [hk] at h
          cases h
        · omega
      rw [if_neg hsend]
      rfl
    · rw [if_pos ⟨hk, hlate⟩]
      rfl
  · intro k
    have htxen : txenPin s ch = true ↔ k.access = .sending := by simp [txenPin, k]
    refine ⟨htxen, fun ha n => ?_, fun b rest ha hcopy => ?_⟩
    · have : txenPin s ch = false := by rw [← Bool.not_eq_true, htxen]; exact ha
      simp [txdPin, this]
    · have hpin : ∀ n, txdPin s ch n = (serialBits b).getD n true := fun n => by
        simp only [txdPin, htxen.mpr ha, if_true, show (chanOf s.line ch).copy = b :: rest from hcopy]
      simp only [hpin]
      exact serialBits_getD b
  · exact ⟨Prod.ext (byteOfBits_dataBits b) rfl, Prod.ext (byteOfBits_dataBits b) rfl⟩

end Sys2Proof.Machine
end

section
/-! SUPPORT. Refused commands: by the operating state, and LOAD_CONFIG by the first field that fails. -/

namespace Sys2Proof.Machine

/-! ## The calendar of any block -/

/-- The points of a block pass exactly where each lies within a day, its band is 0 to 3, and the next one comes
later (R46, R145 index 10). -/
theorem calendarPasses_points (d : Nat) (b : List Byte) (n off : Nat) :
    calendarPasses d (calendarPoints b n off) = true ↔
      ∀ k, k < n →
        fieldAt b (off + 3 * k) 2 < d ∧ fieldAt b (off + 2 + 3 * k) 1 ≤ 3
          ∧ (k + 1 < n → fieldAt b (off + 3 * k) 2 < fieldAt b (off + 3 * (k + 1)) 2) := by
  induction n generalizing off with
  | zero => simp [calendarPoints, calendarPasses]
  | succ n ih =>
    have hstep : ∀ k, off + 3 + 3 * k = off + 3 * (k + 1) ∧ off + 3 + 2 + 3 * k = off + 2 + 3 * (k + 1) :=
      fun k => by omega
    have hih := ih (off + 3)
    simp only [hstep] at hih
    simp only [Nat.forall_lt_succ_left, Nat.add_lt_add_iff_right]
    rw [← hih]
    cases n with
    | zero => simp [calendarPoints, calendarPasses]
    | succ n => simp [calendarPoints, calendarPasses, and_assoc]

/-! ## The first field that fails -/

/-- Among checks in index order the first that fails is the one before which all pass (R145). -/
theorem find?_first_failing {l : List (Nat × Bool)} (hl : l.Pairwise fun a b => a.1 < b.1) {n : Nat}
    (hn : (n, false) ∈ l) (hbefore : ∀ i ok, (i, ok) ∈ l → i < n → ok = true) :
    l.find? (fun p => !p.2) = some (n, false) := by
  induction l with
  | nil => simp at hn
  | cons p rest ih =>
    obtain ⟨i, ok⟩ := p
    obtain ⟨hlt, hrest⟩ := List.pairwise_cons.mp hl
    rcases List.mem_cons.mp hn with heq | hmem
    · obtain ⟨rfl, rfl⟩ := Prod.mk.inj heq
      rfl
    · obtain rfl : ok = true := hbefore i ok (List.mem_cons_self ..) (hlt _ hmem)
      exact ih hrest hmem fun j o hj => hbefore j o (List.mem_cons_of_mem _ hj)

/-- The sixteen checks in index order (R145). -/
theorem configChecks_indices (b : List Byte) (q : Option Nat) :
    (configChecks b q).map (·.1) = (List.range 16).map (· + 1) := rfl

theorem configChecks_ascending (b : List Byte) (q : Option Nat) :
    (configChecks b q).Pairwise fun x y => x.1 < y.1 := by
  have h : ((configChecks b q).map (·.1)).Pairwise (· < ·) := by
    rw [configChecks_indices]
    decide
  exact List.pairwise_map.mp h

/-- BAD_CONFIG returns the index of the first field that fails (R145). -/
theorem configFailure_eq {b : List Byte} {q : Option Nat} {n : Nat} (hn : (n, false) ∈ configChecks b q)
    (hbefore : ∀ i ok, (i, ok) ∈ configChecks b q → i < n → ok = true) : configFailure b q = some n := by
  rw [configFailure, find?_first_failing (configChecks_ascending b q) hn hbefore]
  rfl

/-! ## Refused commands -/

/-- LOAD_CONFIG of a whole block, once nothing is due (R145). -/
theorem exec_loadConfig {s : State} {block : List Byte} (hn : nothingDue s = true)
    (hserve : s.port.serving = true) (hlen : block.length = 126) :
    exec (.loadConfig block) s = .next (loadConfigActs block s) := by
  rw [exec_after, after, if_neg (by omega), served_takeDue hn hserve, List.take_of_length_le (by omega)]

/-- Settles O54. -/
theorem refusedCommandsChangeNothing : Obligations.RefusedCommandsChangeNothing := by
  refine ⟨fun s a b day iod elapsed hn hserve => ⟨fun hl => ?_, fun hop => ?_⟩,
    fun s block hn hserve hlen => ⟨fun hop => ?_, fun n hop => ?_⟩, fun block retained => ?_⟩
  · simp only [exec_after, after, served_takeDue hn hserve]
    refine ⟨?_, ?_, ?_, ?_, ?_⟩
    · unfold writeLinesActs
      cases s.config <;> simp only [hl] <;> rfl
    · simp only [releaseCutoffActs, hl]
      rfl
    · unfold setDayPositionActs
      cases s.config <;> simp only [hl] <;> rfl
    · simp only [readPeerActs, hl]
      rfl
    · simp only [enableChannelActs, hl]
      rfl
  · rw [exec_after, after, served_takeDue hn hserve]
    unfold resyncActs
    cases s.config <;> simp only [if_neg hop] <;> rfl
  · rw [exec_loadConfig hn hserve hlen, loadConfigActs, if_neg hop]
    rfl
  · intro checks hfail hbefore
    have hfirst : configFailure block (checkedQ s) = some n := configFailure_eq hfail hbefore
    simp only [exec_loadConfig hn hserve hlen, loadConfigActs, hop, if_true, hfirst, respond_eq_answered,
      beBytes, pow_zero, Nat.div_one]
    rfl
  · intro byte pair q d point passes
    have hpasses : ∀ p ∈ configChecks block retained, p.2 = true ↔ passes p.1 := by
      simp only [configChecks, List.forall_mem_cons, Bool.and_eq_true, Bool.or_eq_true, decide_eq_true_eq,
        calendarPasses_points]
      refine ⟨.rfl, .rfl, .rfl, .rfl, .rfl, .rfl, ?mode, ?quantum, .rfl, ?calendar, .rfl, .rfl, .rfl, .rfl, .rfl,
        ?position, by simp⟩
      case mode => exact Nat.le_one_iff_eq_zero_or_eq_one
      case quantum =>
        cases retained with
        | none => simp [passes, q]
        | some kept => simp [passes, q, and_assoc]
      case calendar => simp [passes, byte, pair, point, d]
      case position => simp [passes, byte, pair, d, and_assoc]
    refine ⟨configChecks_indices block retained, fun n ok h => hpasses _ h, ?_⟩
    have hindex : ∀ n, (1 ≤ n ∧ n ≤ 16) ↔ ∃ p ∈ configChecks block retained, p.1 = n := by
      intro n
      rw [← List.mem_map, configChecks_indices, List.mem_map]
      refine ⟨fun h => ⟨n - 1, List.mem_range.mpr (by omega), by omega⟩, ?_⟩
      rintro ⟨k, hk, rfl⟩
      have := List.mem_range.mp hk
      omega
    rw [configFailure_none_iff]
    constructor
    · intro hall n h1 h16
      obtain ⟨p, hp, rfl⟩ := (hindex n).mp ⟨h1, h16⟩
      exact (hpasses p hp).mp (hall p hp)
    · intro hall p hp
      obtain ⟨h1, h16⟩ := (hindex p.1).mpr ⟨p, hp, rfl⟩
      exact (hpasses p hp).mpr (hall p.1 h1 h16)

end Sys2Proof.Machine
end

section
/-! SUPPORT. The laws of the group line: how judging treats a channel in each access state, and the laws of
the channels and of the send list that every operation on the line keeps. -/

namespace Sys2Proof.Machine

/-! ## A channel under judging, by its access state -/

/-- Only an IDLE channel commits (R62). -/
theorem commitChan_of_busy {c : Chan} (may : Bool) (ch : Channel) (es : List Entry) (h : c.access ≠ .idle) :
    commitChan may ch es c = c := by simp [commitChan, h]

/-- Only a channel in DEFER or BACKOFF is freed (R58, R63). -/
theorem freeChan_of_not_waiting {c : Chan} (es : List Entry) (h : c.access ≠ .defer ∧ c.access ≠ .backoff) :
    freeChan es c = c := by simp [freeChan, h]

/-- A channel in SENDING is marked where it is out of the sending set (R59). -/
theorem lapseChan_of_sending {c : Chan} (inSet : Bool) (h : c.access = .sending) :
    lapseChan inSet c = { c with lapsed := c.lapsed || !inSet } := by
  cases c
  obtain rfl : _ = AccessState.sending := h
  cases inSet <;> simp [lapseChan]

/-- A channel in SENDING goes on with its attempt, marked where it is out of the sending set (R59). -/
theorem judgeLine_chan_of_sending (live : Bool) {l : Line} {ch : Channel}
    (h : (chanOf l ch).access = .sending) :
    chanOf (judgeLine live l) ch =
      { chanOf l ch with lapsed := (chanOf l ch).lapsed || !inSendingSet l ch } := by
  rw [judgeLine_chan, lapseChan_of_sending _ h, freeChan_of_not_waiting, commitChan_of_busy] <;> simp [h]

/-- A channel in IDLE has only the commitment before it (R62). -/
theorem judgeLine_chan_of_idle (live : Bool) {l : Line} {ch : Channel}
    (h : (chanOf l ch).access = .idle) :
    chanOf (judgeLine live l) ch =
      commitChan (live && !l.barred && inSendingSet l ch) ch (remaining l) (chanOf l ch) := by
  have hlapse : lapseChan (inSendingSet l ch) (chanOf l ch) = chanOf l ch := by simp [lapseChan, h]
  rw [judgeLine_chan, hlapse, freeChan_of_not_waiting _ (by simp [h])]

/-! ## The law of a channel -/

/-- In IDLE only a receiver that is on while the channel is OFF breaks the law of a channel. -/
theorem chanLaw_of_idle {c : Chan} (ha : c.access = .idle) (hr : c.state = .off → c.recv = .off) :
    ChanLaw c :=
  ⟨fun h => absurd ha h, hr, fun h => by rw [ha] at h; cases h⟩

/-- A channel that has left IDLE is not OFF. -/
theorem ChanLaw.not_off {c : Chan} (h : ChanLaw c) (ha : c.access ≠ .idle) : c.state ≠ .off := by
  rcases h.1 ha with hs | hs <;> simp [hs]

/-- A channel of the law that is IDLE for any reason keeps it, while its state and receiver stay. -/
theorem ChanLaw.idle {c d : Chan} (h : ChanLaw c) (ha : d.access = .idle) (hs : d.state = c.state)
    (hr : d.recv = c.recv) : ChanLaw d :=
  chanLaw_of_idle ha (by rw [hs, hr]; exact h.2.1)

/-- A channel whose attempt has ended waits for quiet (R70). -/
theorem ChanLaw.afterSending {c d : Chan} (h : ChanLaw c) (hc : c.access ≠ .idle) (ha : d.access = .idle)
    (hs : d.state = c.state) : ChanLaw d :=
  chanLaw_of_idle ha fun ho => absurd (hs ▸ ho) (h.not_off hc)

/-- A channel whose state is as it was, or GOOD or DEGRADED, keeps the law with its access and receiver. -/
theorem ChanLaw.restate {c d : Chan} (h : ChanLaw c) (ha : d.access = c.access) (hr : d.recv = c.recv)
    (hs : d.state = c.state ∨ d.state = .good ∨ d.state = .degraded) : ChanLaw d := by
  obtain ⟨hstate, hoff, hrecv⟩ := h
  unfold ChanLaw
  rw [ha, hr]
  rcases hs with hs | hs
  · rw [hs]
    exact ⟨hstate, hoff, hrecv⟩
  · exact ⟨fun _ => hs, fun ho => by simp [ho] at hs, hrecv⟩

theorem ChanLaw.errorUp {c : Chan} (h : ChanLaw c) : ChanLaw (errorUp c) := by
  refine h.restate (errorUp_access c).1 (errorUp_access c).2 ?_
  unfold Machine.errorUp
  split
  · exact .inl rfl
  · dsimp only
    split
    · exact .inr (.inr rfl)
    · exact .inl rfl

theorem ChanLaw.errorDown {c : Chan} (h : ChanLaw c) : ChanLaw (errorDown c) := by
  refine h.restate (errorDown_access c).1 (errorDown_access c).2 ?_
  unfold Machine.errorDown
  split
  · exact .inl rfl
  · dsimp only
    split
    · exact .inr (.inl rfl)
    · exact .inl rfl

/-- What a change of CS leaves of a channel (R63, R64). -/
theorem senseChan_frame (active : Bool) (c : Chan) :
    (senseChan active c).state = c.state ∧ (senseChan active c).recv = c.recv
      ∧ (senseChan active c).committed = c.committed := by
  unfold senseChan
  dsimp only
  (repeat' split) <;> exact ⟨rfl, rfl, rfl⟩

/-- A change of CS starts and ends no attempt; it returns BACKOFF to DEFER at the most (R63, R64). -/
theorem senseChan_access (active : Bool) (c : Chan) :
    (senseChan active c).access = c.access
      ∨ (c.access = .backoff ∧ (senseChan active c).access = .defer) := by
  unfold senseChan
  dsimp only
  split
  · exact .inl rfl
  · exact .inl rfl
  · rename_i ha
    split
    · exact .inr ⟨ha, rfl⟩
    · exact .inl rfl
  · exact .inl rfl

theorem ChanLaw.sense {c : Chan} (h : ChanLaw c) (active : Bool) : ChanLaw (senseChan active c) := by
  obtain ⟨hs, hr, _⟩ := senseChan_frame active c
  rcases senseChan_access active c with ha | ⟨hb, ha⟩
  · exact h.restate ha hr (.inl hs)
  · unfold ChanLaw
    rw [hs, hr, ha]
    exact ⟨fun _ => h.1 (by simp [hb]), h.2.1, nofun⟩

theorem ChanLaw.cut {c : Chan} (h : ChanLaw c) : ChanLaw (cutChan c) := by
  unfold cutChan
  split
  · rename_i ha
    exact h.afterSending (by simp [ha]) rfl rfl
  · exact h

theorem barChan_idle (c : Chan) : (barChan c).access = .idle := by
  unfold barChan
  cases h : c.access <;> simp [h, cutChan, toIdleFresh, toIdle, recvAfterSending]

theorem ChanLaw.bar {c : Chan} (h : ChanLaw c) : ChanLaw (barChan c) := by
  unfold barChan
  split
  · exact h
  · exact h.idle rfl rfl rfl
  · exact h.idle rfl rfl rfl
  · exact h.cut

/-- A channel's receiver changes where the channel is not OFF and does not send. -/
theorem ChanLaw.setRecv {c : Chan} (h : ChanLaw c) {r : RecvState} (hon : c.recv ≠ .off)
    (hs : c.access ≠ .sending) : ChanLaw { c with recv := r } :=
  ⟨h.1, fun ho => absurd (h.2.1 ho) hon, fun ha => absurd ha hs⟩

/-! ## What the operations on the line leave of its channels -/

theorem chanOf_congr {l m : Line} (hl : m.l = l.l) (hh : m.h = l.h) (ch : Channel) :
    chanOf m ch = chanOf l ch := by
  cases ch
  · exact hl
  · exact hh

@[simp] theorem setStatus_chan (ch k : Channel) (st : CopyStatus) (n : Option Nat) (l : Line) :
    chanOf (setStatus ch st n l) k = chanOf l k := by cases k <;> rfl

@[simp] theorem setStatus_barred (ch : Channel) (st : CopyStatus) (n : Option Nat) (l : Line) :
    (setStatus ch st n l).barred = l.barred := rfl

@[simp] theorem setStatus_nextSerial (ch : Channel) (st : CopyStatus) (n : Option Nat) (l : Line) :
    (setStatus ch st n l).nextSerial = l.nextSerial := rfl

theorem addEntry_frame (k : FrameKind) (id : IntervalId) (net : Int) (l : Line) :
    (addEntry k id net l).l = l.l ∧ (addEntry k id net l).h = l.h
      ∧ (addEntry k id net l).barred = l.barred ∧ (addEntry k id net l).filter = l.filter
      ∧ (addEntry k id net l).nextSerial = l.nextSerial + 1 := by
  obtain ⟨hl, hh, hb, hf, hn⟩ := makeRoom_frame l
  exact ⟨hl, hh, hb, hf, congrArg (· + 1) hn⟩

@[simp] theorem barLine_chan (l : Line) (ch : Channel) :
    chanOf (barLine l) ch = barChan (chanOf l ch) := by cases ch <;> rfl

@[simp] theorem lineHold_chan (l : Line) (ch : Channel) :
    chanOf (lineHold l) ch = holdChan (chanOf l ch) := by cases ch <;> rfl

@[simp] theorem lineStartReceiving_chan (l : Line) (ch : Channel) :
    chanOf (lineStartReceiving l) ch = startReceiving (chanOf l ch) := by cases ch <;> rfl

theorem startReceiving_frame (c : Chan) :
    (startReceiving c).access = c.access ∧ (startReceiving c).state = c.state := by
  unfold startReceiving
  split <;> exact ⟨rfl, rfl⟩

theorem cutReport_cases (es : List Entry) (c : Chan) :
    cutReport es c = c ∨ cutReport es c = cutChan c := by
  unfold cutReport
  split
  · exact .inr rfl
  · exact .inl rfl

/-! ## The law of the channels and the list, without the operating state -/

/-- The law of the Line Controller, apart from the quiet line in START and HOLD (R53, R57, R58, R75). -/
structure Orderly (l : Line) : Prop where
  chan : ∀ ch, ChanLaw (chanOf l ch)
  short : l.sendList.length ≤ 4
  order : ReportsFirst l.sendList
  barred : l.barred = true → l.sendList = [] ∧ ∀ ch, (chanOf l ch).access = .idle

theorem lineLaw_iff (s : State) :
    LineLaw s ↔ (isLive s = false → LineSilent s.line) ∧ Orderly s.line := by
  rw [← lineQuiet_iff]
  constructor
  · rintro ⟨hl, hh, hlen, hord, hbar, hq⟩
    exact ⟨hq, fun | .l => hl | .h => hh, hlen, hord, fun hb =>
      ⟨(hbar hb).1, fun | .l => (hbar hb).2.1 | .h => (hbar hb).2.2⟩⟩
  · rintro ⟨hq, hch, hlen, hord, hbar⟩
    exact ⟨hch .l, hch .h, hlen, hord, fun hb => ⟨(hbar hb).1, (hbar hb).2 .l, (hbar hb).2 .h⟩, hq⟩

/-- The outcome, the filter and the serial numbers are outside the law. -/
theorem Orderly.congr {l m : Line} (h : Orderly l) (hl : m.l = l.l) (hh : m.h = l.h)
    (hs : m.sendList = l.sendList) (hb : m.barred = l.barred) : Orderly m := by
  have hch := chanOf_congr hl hh
  exact ⟨fun ch => hch ch ▸ h.chan ch, hs ▸ h.short, hs ▸ h.order, fun hbar =>
    ⟨hs.trans (h.barred (hb ▸ hbar)).1, fun ch => hch ch ▸ (h.barred (hb ▸ hbar)).2 ch⟩⟩

/-- A line with an empty list and both channels IDLE. -/
theorem orderly_of_empty {l : Line} (hs : l.sendList = [])
    (hch : ∀ ch, (chanOf l ch).access = .idle ∧ ((chanOf l ch).state = .off → (chanOf l ch).recv = .off)) :
    Orderly l where
  chan ch := chanLaw_of_idle (hch ch).1 (hch ch).2
  short := by simp [hs]
  order := by simp [hs, ReportsFirst]
  barred _ := ⟨hs, fun ch => (hch ch).1⟩

theorem Orderly.judge {l : Line} (h : Orderly l) (live : Bool) : Orderly (judgeLine live l) where
  chan ch := judgeLine_chanLaw live ch (h.chan ch)
  short := by
    rw [judgeLine_sendList]
    exact (remaining_sublist l).length_le.trans h.short
  order := by
    rw [judgeLine_sendList]
    exact h.order.sublist (remaining_sublist l)
  barred hb := by
    rw [judgeLine_barred] at hb
    obtain ⟨hlist, hidle⟩ := h.barred hb
    refine ⟨?_, fun ch => ?_⟩
    · rw [judgeLine_sendList]
      exact List.eq_nil_of_sublist_nil (hlist ▸ remaining_sublist l)
    · rw [judgeLine_chan_of_idle live (hidle ch)]
      simp [commitChan, hb, hidle ch]

/-- One channel is replaced by another that keeps the channel's law, IDLE while transmit is barred. -/
theorem Orderly.setChan {l : Line} (h : Orderly l) {ch : Channel} {c : Chan} (hc : ChanLaw c)
    (hb : l.barred = true → c.access = .idle) : Orderly (setChan l ch c) where
  chan k := by
    by_cases hk : k = ch
    · rw [hk, chanOf_setChan_same]
      exact hc
    · rw [chanOf_setChan_other l c hk]
      exact h.chan k
  short := by simpa using h.short
  order := by simpa using h.order
  barred hbar := by
    rw [setChan_barred] at hbar
    refine ⟨by simpa using (h.barred hbar).1, fun k => ?_⟩
    by_cases hk : k = ch
    · rw [hk, chanOf_setChan_same]
      exact hb hbar
    · rw [chanOf_setChan_other l c hk]
      exact (h.barred hbar).2 k

/-- A busy channel is replaced by another that keeps the channel's law. -/
theorem Orderly.setBusy {l : Line} (h : Orderly l) {ch : Channel} {c : Chan}
    (ha : (chanOf l ch).access ≠ .idle) (hc : ChanLaw c) : Orderly (Machine.setChan l ch c) :=
  h.setChan hc fun hb => absurd ((h.barred hb).2 ch) ha

/-- A status changes no kind and adds no entry (R57). -/
theorem Orderly.setStatus {l : Line} (h : Orderly l) (ch : Channel) (st : CopyStatus) (n : Option Nat) :
    Orderly (setStatus ch st n l) where
  chan k := by simpa using h.chan k
  short := by simpa [Machine.setStatus] using h.short
  order := by
    have hkind : ∀ e : Entry, (if n = some e.serial then withStatus ch st e else e).kind = e.kind := by
      intro e
      split
      · cases ch <;> rfl
      · rfl
    refine List.pairwise_map.mpr (h.order.imp fun {a b} hab => ?_)
    rw [hkind, hkind]
    exact hab
  barred hb := by
    obtain ⟨hlist, hidle⟩ := h.barred hb
    exact ⟨by simp [Machine.setStatus, hlist], fun k => by simpa using hidle k⟩

/-- A frame joins an orderly list that is not barred (R57, R58). -/
theorem Orderly.addEntry {l : Line} (h : Orderly l) (hb : l.barred = false) (k : FrameKind)
    (id : IntervalId) (net : Int) : Orderly (addEntry k id net l) := by
  obtain ⟨hl, hh, hbar, _, _⟩ := addEntry_frame k id net l
  refine ⟨fun ch => chanOf_congr hl hh ch ▸ h.chan ch, ?_,
    insertEntry_order (h.order.sublist (makeRoom_sublist l)), fun ht => ?_⟩
  · show (insertEntry _ (makeRoom l).sendList).length ≤ 4
    have := makeRoom_length h.short
    rw [insertEntry_length]
    omega
  · rw [hbar, hb] at ht
    cases ht

theorem Orderly.handPresence {l : Line} (h : Orderly l) (live : Bool) (id : IntervalId) :
    Orderly (handPresence live id l) := by
  unfold Machine.handPresence
  split
  · exact h
  · rename_i hb
    simp only [Bool.or_eq_true, not_or, Bool.not_eq_true] at hb
    exact (h.addEntry hb.1 _ _ _).judge live

theorem Orderly.handReport {l : Line} (h : Orderly l) (live : Bool) (id : IntervalId) (net : Int) :
    Orderly (handReport live id net l) := by
  unfold Machine.handReport
  split
  · exact h.congr rfl rfl rfl rfl
  · rename_i hb
    split
    · exact h
    · have hadd := h.addEntry (Bool.eq_false_iff.mpr hb) .report id net
      refine Orderly.judge (Orderly.congr hadd ?_ ?_ ?_ ?_) live <;> rfl

theorem Orderly.windowClose {l : Line} (h : Orderly l) (live : Bool) :
    Orderly (lineWindowClose live l) := by
  rw [lineWindowClose_eq]
  refine Orderly.judge ⟨fun ch => ?_, ?_, h.order.sublist List.filter_sublist, fun hb => ?_⟩ live
  · rw [windowLine_chan]
    rcases cutReport_cases l.sendList (chanOf l ch) with hc | hc
    · rw [hc]
      exact h.chan ch
    · rw [hc]
      exact (h.chan ch).cut
  · exact (List.length_filter_le _ _).trans h.short
  · obtain ⟨hlist, hidle⟩ := h.barred hb
    refine ⟨by simp [windowLine, hlist], fun ch => ?_⟩
    rw [windowLine_chan, cutReport, cutChan, hidle ch]
    simpa using hidle ch

theorem Orderly.errorUp {l : Line} (h : Orderly l) (live : Bool) (ch : Channel) :
    Orderly (lineErrorUp live ch l) :=
  (h.setChan (h.chan ch).errorUp fun hb => (errorUp_access _).1.trans ((h.barred hb).2 ch)).judge live

theorem Orderly.errorDown {l : Line} (h : Orderly l) (live : Bool) (ch : Channel) :
    Orderly (lineErrorDown live ch l) :=
  (h.setChan (h.chan ch).errorDown fun hb =>
    (errorDown_access _).1.trans ((h.barred hb).2 ch)).judge live

/-- In SENDING one count against the channel leaves it in SENDING (R59, R67). -/
theorem lineErrorUp_sending (live : Bool) {l : Line} {ch : Channel} (ha : (chanOf l ch).access = .sending) :
    (chanOf (lineErrorUp live ch l) ch).access = .sending := by
  have h : (chanOf (setChan l ch (errorUp (chanOf l ch))) ch).access = .sending := by
    rw [chanOf_setChan_same, (errorUp_access _).1, ha]
  rw [lineErrorUp, judgeLine_chan_of_sending live h]
  exact h

/-- A failed attempt either ends, its channel IDLE, or its channel, of the sending set, defers (R66). -/
theorem Orderly.attemptFailed {l : Line} (h : Orderly l) (live : Bool) {ch : Channel}
    (ha : (chanOf l ch).access = .sending) : Orderly (attemptFailed live ch l) := by
  have hne : (chanOf l ch).access ≠ .idle := by simp [ha]
  have hend : ChanLaw (recvAfterSending (toIdleFresh (chanOf l ch))) :=
    (h.chan ch).afterSending hne rfl rfl
  unfold Machine.attemptFailed
  dsimp only
  (repeat' split)
  · exact (h.setBusy hne hend).judge live
  · exact ((h.setStatus ch .dropped _).setChan hend fun _ => rfl).judge live
  · exact (h.setBusy hne hend).judge live
  · refine (h.setBusy hne ?_).judge live
    exact ⟨fun _ => (h.chan ch).1 hne, fun ho => absurd ho ((h.chan ch).not_off hne), nofun⟩

/-- The end of an attempt whose last echo matched (R65). -/
theorem Orderly.attemptSent {l : Line} (h : Orderly l) (live : Bool) {ch : Channel}
    (ha : (chanOf l ch).access = .sending) : Orderly (attemptSent live ch l) := by
  have hend : ChanLaw (recvAfterSending (toIdleFresh (chanOf l ch))) :=
    (h.chan ch).afterSending (by simp [ha]) rfl rfl
  exact ((h.setStatus ch .sent _).setChan hend fun _ => rfl).judge live

theorem Orderly.dropLateCopy {l : Line} (h : Orderly l) (live : Bool) (ch : Channel) :
    Orderly (dropLateCopy live ch l) := by
  have hend : ChanLaw (toIdle (chanOf l ch)) := (h.chan ch).idle rfl rfl rfl
  exact ((h.setStatus ch .dropped _).setChan hend fun _ => rfl).judge live

/-- A channel that is switched or cut off is IDLE, and not OFF with its receiver on (R69, R76). -/
theorem Orderly.setIdle {l : Line} (h : Orderly l) (live : Bool) {ch : Channel} {c : Chan}
    (hc : c.access = .idle) (hr : c.state = .off → c.recv = .off) :
    Orderly (judgeLine live (Machine.setChan l ch c)) :=
  (h.setChan (chanLaw_of_idle hc hr) fun _ => hc).judge live

theorem cutChan_idle {c : Chan} (ha : c.access = .sending) : (cutChan c).access = .idle := by
  rw [cutChan, if_pos ha]
  rfl

/-- Every operation on the line keeps the law of the channels and the list. -/
theorem orderly_closed : LineClosed fun live l => (live = false → LineSilent l) ∧ Orderly l where
  handReport id n l h := ⟨nofun, h.2.handReport true id n⟩
  handPresence id l h := ⟨nofun, h.2.handPresence true id⟩
  windowClose l h := ⟨nofun, h.2.windowClose true⟩
  hold b l h := ⟨lineSilent_closed.hold b l h.1, orderly_of_empty rfl fun ch => by
    rw [lineHold_chan]
    exact ⟨rfl, fun _ => rfl⟩⟩
  wake l h := by
    obtain ⟨hch, hs⟩ := h.1 rfl
    refine ⟨nofun, orderly_of_empty hs fun ch => ?_⟩
    rw [lineStartReceiving_chan, (startReceiving_frame _).1, (startReceiving_frame _).2]
    exact ⟨(hch ch).1, fun ho => by rw [startReceiving, if_pos ho]; exact (hch ch).2⟩
  accept l x y h := by
    have hsilent := lineSilent_closed.accept l x y h.1
    obtain ⟨hch, hs⟩ := hsilent rfl
    exact ⟨hsilent, orderly_of_empty hs fun ch => ⟨(hch ch).1, fun _ => (hch ch).2⟩⟩
  filter b l f h := ⟨lineSilent_closed.filter b l f h.1, h.2.congr rfl rfl rfl rfl⟩
  recv b l ch r h hon hsend hr := by
    have hns : (chanOf l ch).access ≠ .sending := fun ha =>
      hsend.elim (fun hd => hd ((h.2.chan ch).2.2 ha)) fun hn => hn ha
    exact ⟨lineSilent_closed.recv b l ch r h.1 hon hsend hr,
      h.2.setChan ((h.2.chan ch).setRecv hon hns) fun hb => (h.2.barred hb).2 ch⟩
  errorUp b l ch h := ⟨lineSilent_closed.errorUp b l ch h.1, h.2.errorUp b ch⟩
  errorDown b l ch h := ⟨lineSilent_closed.errorDown b l ch h.1, h.2.errorDown b ch⟩
  bar b l h := ⟨lineSilent_closed.bar b l h.1, orderly_of_empty rfl fun ch => by
    rw [barLine_chan]
    exact ⟨barChan_idle _, (h.2.chan ch).bar.2.1⟩⟩
  sense b l ch a h := ⟨lineSilent_closed.sense b l ch a h.1,
    h.2.setChan ((h.2.chan ch).sense a) fun hb => by
      simp [senseChan, (h.2.barred hb).2 ch]⟩
  gap b l ch n h ha := by
    have hne : (chanOf l ch).access ≠ .idle := by simp [ha]
    have hlaw : ChanLaw (enterBackoff n (chanOf l ch)) :=
      ⟨fun _ => (h.2.chan ch).1 hne, (h.2.chan ch).2.1, nofun⟩
    exact ⟨lineSilent_closed.gap b l ch n h.1 ha, h.2.setBusy hne hlaw⟩
  begin b l ch bytes h ha := by
    have hne : (chanOf l ch).access ≠ .idle := by simp [ha]
    have hlaw : ChanLaw (beginSending bytes (chanOf l ch)) :=
      ⟨fun _ => (h.2.chan ch).1 hne, fun ho => absurd ho ((h.2.chan ch).not_off hne), fun _ => rfl⟩
    exact ⟨lineSilent_closed.begin b l ch bytes h.1 ha, h.2.setBusy hne hlaw⟩
  dropLate b l ch h ha := ⟨lineSilent_closed.dropLate b l ch h.1 ha, h.2.dropLateCopy b ch⟩
  next b l ch rest h ha := ⟨lineSilent_closed.next b l ch rest h.1 ha,
    h.2.setChan (h.2.chan ch) fun hb => (h.2.barred hb).2 ch⟩
  sent b l ch h ha := ⟨lineSilent_closed.sent b l ch h.1 ha, h.2.attemptSent b ha⟩
  failed b l ch h ha := ⟨lineSilent_closed.failed b l ch h.1 ha, h.2.attemptFailed b ha⟩
  missing b l ch h ha := ⟨lineSilent_closed.missing b l ch h.1 ha,
    (h.2.errorUp b ch).attemptFailed b (lineErrorUp_sending b ha)⟩
  guard b l ch h ha := ⟨lineSilent_closed.guard b l ch h.1 ha, h.2.setIdle b (cutChan_idle ha) nofun⟩
  enable b l ch h hst hb := ⟨lineSilent_closed.enable b l ch h.1 hst hb, h.2.setIdle b rfl nofun⟩
  disable b l ch h := ⟨lineSilent_closed.disable b l ch h.1, h.2.setIdle b rfl fun _ => rfl⟩
  reset x y := ⟨lineSilent_closed.reset x y, orderly_of_empty rfl fun ch => by
    cases ch <;> exact ⟨rfl, fun _ => rfl⟩⟩

/-- Settles O10. -/
theorem lineLawIsKept : Obligations.LineLawIsKept := by
  have h := line_kept orderly_closed
  intro s t hs hst
  rw [lineLaw_iff] at hs ⊢
  exact h s t hs hst

end Sys2Proof.Machine
end

section
/-! SUPPORT. The law of the send list: what a change of the line must leave for judging to settle it, and the
changes after which nothing is left to judge. -/

namespace Sys2Proof.Machine

/-! ## The settled send list -/

/-- The law of the send list, apart from the quiet line in START and HOLD (R58, R59, R60, R62). -/
structure Settled (live : Bool) (l : Line) : Prop where
  commit : ∀ ch, CommitmentFits l ch
  served : ∀ ch, ChanServed live l ch
  left : (inSendingSet l .l = true ∨ inSendingSet l .h = true) → ∀ e ∈ l.sendList, entryDone l e = false
  nodup : (l.sendList.map (·.serial)).Nodup
  fresh : ∀ e ∈ l.sendList, e.serial < l.nextSerial

theorem settledLaw_iff (s : State) :
    SettledLaw s ↔ (isLive s = false → LineSilent s.line) ∧ Settled (isLive s) s.line := by
  rw [← lineQuiet_iff]
  constructor
  · rintro ⟨hcl, hch, hsl, hsh, hleft, hnd, hlt, hq⟩
    exact ⟨hq, fun | .l => hcl | .h => hch, fun | .l => hsl | .h => hsh, hleft, hnd, hlt⟩
  · rintro ⟨hq, hc, hs, hleft, hnd, hlt⟩
    exact ⟨hc .l, hc .h, hs .l, hs .h, hleft, hnd, hlt, hq⟩

/-- A line with an empty list and both channels IDLE has nothing left to do. -/
theorem settled_of_empty (live : Bool) {l : Line} (hs : l.sendList = [])
    (ha : ∀ ch, (chanOf l ch).access = .idle) : Settled live l where
  commit ch := ⟨fun hne => absurd (ha ch) hne, fun hw => by simp [ha ch] at hw⟩
  served ch := ⟨fun _ => .inl (ha ch), by simp [hs]⟩
  left := by simp [hs]
  nodup := by simp [hs]
  fresh := by simp [hs]

/-! ## What judging settles -/

theorem Settled.listFits {live : Bool} {l : Line} (h : Settled live l) : ListFits l :=
  ⟨h.nodup, h.fresh, fun ch => (h.commit ch).1⟩

/-- Judging settles a line whose list and commitments fit (R59, R60, R62). -/
theorem ListFits.settled {l : Line} (h : ListFits l) (live : Bool) : Settled live (judgeLine live l) where
  commit := judgeLine_commitment h
  served := judgeLine_served live l
  left hset := judgeLine_left live l (by simpa using hset)
  nodup := (judgeLine_listFits h).1
  fresh := (judgeLine_listFits h).2.1

/-- A change that enters nothing in the list and gives no channel a new commitment. -/
theorem ListFits.mono {l m : Line} (h : ListFits l) (hs : m.sendList.Sublist l.sendList)
    (hn : m.nextSerial = l.nextSerial)
    (hc : ∀ ch, (chanOf m ch).access ≠ .idle →
      (chanOf l ch).access ≠ .idle ∧ (chanOf m ch).committed = (chanOf l ch).committed) : ListFits m := by
  obtain ⟨hnd, hlt, hcom⟩ := h
  refine ⟨hnd.sublist (hs.map _), fun e he => hn ▸ hlt e (hs.subset he), fun ch ha => ?_⟩
  obtain ⟨hold, hsame⟩ := hc ch ha
  obtain ⟨n, hcn, hnlt, hpend⟩ := hcom ch hold
  exact ⟨n, hsame.trans hcn, hn ▸ hnlt, fun e he => hpend e (hs.subset he)⟩

/-- One channel is replaced by another that is IDLE or keeps its commitment. -/
theorem ListFits.setChan {l : Line} (h : ListFits l) {ch : Channel} {c : Chan}
    (hc : c.access ≠ .idle → (chanOf l ch).access ≠ .idle ∧ c.committed = (chanOf l ch).committed) :
    ListFits (setChan l ch c) := by
  refine h.mono (by simp) (by simp) fun k => ?_
  by_cases hk : k = ch
  · rw [hk, chanOf_setChan_same]
    exact hc
  · rw [chanOf_setChan_other l c hk]
    exact fun ha => ⟨ha, rfl⟩

theorem statusOf_withStatus_other {ch k : Channel} (st : CopyStatus) (e : Entry) (h : k ≠ ch) :
    statusOf (withStatus ch st e) k = statusOf e k := by
  cases ch <;> cases k
  · exact absurd rfl h
  · rfl
  · rfl
  · exact absurd rfl h

/-- Marking an entry on a channel leaves its serial number and its status on the other channel. -/
theorem marked_entry (ch : Channel) (st : CopyStatus) (n : Option Nat) (e : Entry) :
    (if n = some e.serial then withStatus ch st e else e).serial = e.serial
      ∧ ∀ k, k ≠ ch → statusOf (if n = some e.serial then withStatus ch st e else e) k = statusOf e k := by
  split
  · exact ⟨by cases ch <;> rfl, fun k hk => statusOf_withStatus_other st e hk⟩
  · exact ⟨rfl, fun _ _ => rfl⟩

/-- An entry is marked on a channel that becomes IDLE (R65, R66). -/
theorem ListFits.markIdle {l : Line} (h : ListFits l) {ch : Channel} (st : CopyStatus) (n : Option Nat)
    {c : Chan} (hc : c.access = .idle) : ListFits (Machine.setChan (setStatus ch st n l) ch c) := by
  obtain ⟨hnd, hlt, hcom⟩ := h
  refine ⟨?_, ?_, fun k ha => ?_⟩
  · have hserial : (setStatus ch st n l).sendList.map (·.serial) = l.sendList.map (·.serial) := by
      simp only [setStatus, List.map_map]
      exact List.map_congr_left fun e _ => (marked_entry ch st n e).1
    rw [setChan_sendList, hserial]
    exact hnd
  · simp only [setChan_sendList, setChan_nextSerial, setStatus, List.forall_mem_map]
    intro e he
    rw [(marked_entry ch st n e).1]
    exact hlt e he
  · by_cases hk : k = ch
    · rw [hk, chanOf_setChan_same] at ha
      exact absurd hc ha
    · rw [chanOf_setChan_other _ c hk, setStatus_chan] at ha ⊢
      obtain ⟨m, hcm, hmlt, hpend⟩ := hcom k ha
      refine ⟨m, hcm, by simpa using hmlt, ?_⟩
      simp only [setChan_sendList, setStatus, List.forall_mem_map]
      intro e he hm
      obtain ⟨hser, hst⟩ := marked_entry ch st n e
      rw [hst k hk]
      exact hpend e he (hser ▸ hm)

/-- A joining entry is one more beside those of the list (R57). -/
theorem insertEntry_perm (e : Entry) (es : List Entry) : (insertEntry e es).Perm (e :: es) := by
  unfold insertEntry
  cases e.kind
  · have hpres : (es.filter fun x => x.kind == .presence) = es.filter fun x => !(x.kind == .report) :=
      List.filter_congr fun x _ => by cases x.kind <;> rfl
    rw [hpres]
    exact List.perm_middle.trans ((List.filter_append_perm _ es).cons e)
  · exact List.perm_append_singleton e es

theorem makeRoom_listFits {l : Line} (h : ListFits l) : ListFits (makeRoom l) := by
  obtain ⟨hl, hh, _, _, hn⟩ := makeRoom_frame l
  exact h.mono (makeRoom_sublist l) hn fun ch ha => by
    rw [chanOf_congr hl hh] at ha ⊢
    exact ⟨ha, rfl⟩

/-- A new entry joins under a serial number that no channel is committed to (R57, log 14). -/
theorem ListFits.addEntry {l : Line} (h : ListFits l) (k : FrameKind) (id : IntervalId) (net : Int) :
    ListFits (addEntry k id net l) := by
  obtain ⟨hnd, hlt, hcom⟩ := makeRoom_listFits h
  refine ⟨?_, fun e he => ?_, fun ch ha => ?_⟩
  · refine ((insertEntry_perm _ _).map Entry.serial).nodup_iff.mpr (List.nodup_cons.mpr ⟨?_, hnd⟩)
    intro hmem
    obtain ⟨x, hx, heq⟩ := List.mem_map.mp hmem
    exact absurd (hlt x hx) (by simp [heq])
  · rcases mem_insertEntry.mp he with rfl | hx
    · exact Nat.lt_succ_self _
    · exact Nat.lt_succ_of_lt (hlt e hx)
  · obtain ⟨n, hcn, hnlt, hpend⟩ := hcom ch ha
    refine ⟨n, hcn, Nat.lt_succ_of_lt hnlt, fun e he hen => ?_⟩
    rcases mem_insertEntry.mp he with rfl | hx
    · exact absurd hnlt (by simp [← hen])
    · exact hpend e hx hen

/-! ## Changes that need no judging -/

/-- Two channels with the same part in the sending set and the same commitment, both IDLE or neither, the
second one waiting only where the first one waits. -/
structure SameDuty (c d : Chan) : Prop where
  state : d.state = c.state
  committed : d.committed = c.committed
  idle : d.access = .idle ↔ c.access = .idle
  waiting : d.access = .defer ∨ d.access = .backoff → c.access = .defer ∨ c.access = .backoff

theorem sameDuty_of_access {c d : Chan} (hs : d.state = c.state) (hc : d.committed = c.committed)
    (ha : d.access = c.access) : SameDuty c d :=
  ⟨hs, hc, by rw [ha], by rw [ha]; exact id⟩

theorem Settled.frame {live : Bool} {l m : Line} (h : Settled live l) (hs : m.sendList = l.sendList)
    (hn : m.nextSerial = l.nextSerial) (hb : m.barred = l.barred)
    (hd : ∀ ch, SameDuty (chanOf l ch) (chanOf m ch)) : Settled live m := by
  have hset : ∀ ch, inSendingSet m ch = inSendingSet l ch :=
    inSendingSet_congr (hd .l).state (hd .h).state
  refine ⟨fun ch => ⟨fun ha => ?_, fun hw => ?_⟩, fun ch => ⟨fun hout => ?_, fun hl hbar hin hi => ?_⟩,
    fun hany => ?_, hs ▸ h.nodup, hs ▸ hn ▸ h.fresh⟩
  · rw [hs, hn, (hd ch).committed]
    exact (h.commit ch).1 fun hi => ha ((hd ch).idle.mpr hi)
  · rw [hs, (hd ch).committed]
    exact (h.commit ch).2 ((hd ch).waiting hw)
  · rcases (h.served ch).1 (hset ch ▸ hout) with ha | ha
    · exact .inl ((hd ch).idle.mpr ha)
    · have hnw : ¬ ((chanOf m ch).access = .defer ∨ (chanOf m ch).access = .backoff) := fun hw => by
        simpa [ha] using (hd ch).waiting hw
      cases hm : (chanOf m ch).access <;> simp [hm] at hnw ⊢
  · rw [hs]
    exact (h.served ch).2 hl (hb ▸ hbar) (hset ch ▸ hin) ((hd ch).idle.mp hi)
  · rw [hs]
    intro e he
    rw [entryDone_congr hset]
    exact h.left (by simpa only [hset] using hany) e he

theorem Settled.setChan {live : Bool} {l : Line} (h : Settled live l) {ch : Channel} {c : Chan}
    (hd : SameDuty (chanOf l ch) c) : Settled live (setChan l ch c) := by
  refine h.frame (by simp) (by simp) (by simp) fun k => ?_
  by_cases hk : k = ch
  · rw [hk, chanOf_setChan_same]
    exact hd
  · rw [chanOf_setChan_other l c hk]
    exact sameDuty_of_access rfl rfl rfl

theorem sameDuty_sense (active : Bool) (c : Chan) : SameDuty c (senseChan active c) := by
  obtain ⟨hs, _, hc⟩ := senseChan_frame active c
  rcases senseChan_access active c with ha | ⟨hb, ha⟩
  · exact sameDuty_of_access hs hc ha
  · exact ⟨hs, hc, by simp [ha, hb], fun _ => .inr hb⟩

/-! ## The operations -/

theorem Settled.handPresence {live : Bool} {l : Line} (h : Settled live l) (id : IntervalId) :
    Settled live (handPresence live id l) := by
  unfold Machine.handPresence
  split
  · exact h
  · exact (h.listFits.addEntry _ _ _).settled live

theorem Settled.handReport {live : Bool} {l : Line} (h : Settled live l) (id : IntervalId) (net : Int) :
    Settled live (handReport live id net l) := by
  unfold Machine.handReport
  split
  · exact h.frame rfl rfl rfl fun | .l => sameDuty_of_access rfl rfl rfl | .h => sameDuty_of_access rfl rfl rfl
  · split
    · exact h
    · refine ListFits.settled ((h.listFits.addEntry .report id net).mono ?_ ?_ fun ch ha => ?_) live
      · exact List.Sublist.refl _
      · rfl
      · cases ch <;> exact ⟨ha, rfl⟩

theorem cutChan_idle_or (c : Chan) : (cutChan c).access = .idle ∨ cutChan c = c := by
  by_cases ha : c.access = .sending
  · exact .inl (cutChan_idle ha)
  · exact .inr (if_neg ha)

theorem Settled.windowClose {live : Bool} {l : Line} (h : Settled live l) :
    Settled live (lineWindowClose live l) := by
  rw [lineWindowClose_eq]
  refine (h.listFits.mono (m := windowLine l) List.filter_sublist rfl fun ch => ?_).settled live
  rw [windowLine_chan]
  rcases cutReport_cases l.sendList (chanOf l ch) with hc | hc
  · rw [hc]
    exact fun ha => ⟨ha, rfl⟩
  · rw [hc]
    rcases cutChan_idle_or (chanOf l ch) with hi | hi
    · exact fun ha => absurd hi ha
    · rw [hi]
      exact fun ha => ⟨ha, rfl⟩

/-- A change of one channel that leaves its commitment, or leaves it IDLE, and is judged. -/
theorem ListFits.judgeChan {l : Line} (h : ListFits l) (live : Bool) {ch : Channel} {c : Chan}
    (hc : c.access ≠ .idle → (chanOf l ch).access ≠ .idle ∧ c.committed = (chanOf l ch).committed) :
    Settled live (judgeLine live (Machine.setChan l ch c)) :=
  (h.setChan hc).settled live

theorem errorUp_committed (c : Chan) : (errorUp c).committed = c.committed := by
  unfold errorUp
  split <;> rfl

theorem errorDown_committed (c : Chan) : (errorDown c).committed = c.committed := by
  unfold errorDown
  split <;> rfl

theorem ListFits.errorUp {l : Line} (h : ListFits l) (live : Bool) (ch : Channel) :
    Settled live (lineErrorUp live ch l) :=
  h.judgeChan live fun ha => ⟨(errorUp_access _).1 ▸ ha, errorUp_committed _⟩

theorem ListFits.errorDown {l : Line} (h : ListFits l) (live : Bool) (ch : Channel) :
    Settled live (lineErrorDown live ch l) :=
  h.judgeChan live fun ha => ⟨(errorDown_access _).1 ▸ ha, errorDown_committed _⟩

/-- A failed attempt ends, its channel IDLE, or is tried again under the same commitment (R66). -/
theorem ListFits.attemptFailed {l : Line} (h : ListFits l) (live : Bool) {ch : Channel}
    (ha : (chanOf l ch).access = .sending) : Settled live (attemptFailed live ch l) := by
  unfold Machine.attemptFailed
  dsimp only
  (repeat' split)
  · exact h.judgeChan live fun hne => absurd rfl hne
  · exact (h.markIdle .dropped _ rfl).settled live
  · exact h.judgeChan live fun hne => absurd rfl hne
  · exact h.judgeChan live fun _ => ⟨by simp [ha], rfl⟩

/-- Every operation on the line keeps the law of the send list. -/
theorem settled_closed : LineClosed fun live l => (live = false → LineSilent l) ∧ Settled live l where
  handReport id n l h := ⟨nofun, h.2.handReport id n⟩
  handPresence id l h := ⟨nofun, h.2.handPresence id⟩
  windowClose l h := ⟨nofun, h.2.windowClose⟩
  hold b l h := ⟨lineSilent_closed.hold b l h.1, settled_of_empty false rfl fun ch => by
    rw [lineHold_chan]
    rfl⟩
  wake l h := by
    obtain ⟨hch, hs⟩ := h.1 rfl
    refine ⟨nofun, settled_of_empty true hs fun ch => ?_⟩
    rw [lineStartReceiving_chan, (startReceiving_frame _).1]
    exact (hch ch).1
  accept l x y h := by
    have hsilent := lineSilent_closed.accept l x y h.1
    obtain ⟨hch, hs⟩ := hsilent rfl
    exact ⟨hsilent, settled_of_empty false hs fun ch => (hch ch).1⟩
  filter b l f h := ⟨lineSilent_closed.filter b l f h.1, h.2.frame rfl rfl rfl fun
    | .l => sameDuty_of_access rfl rfl rfl
    | .h => sameDuty_of_access rfl rfl rfl⟩
  recv b l ch r h hon hsend hr := ⟨lineSilent_closed.recv b l ch r h.1 hon hsend hr,
    h.2.setChan (sameDuty_of_access rfl rfl rfl)⟩
  errorUp b l ch h := ⟨lineSilent_closed.errorUp b l ch h.1, h.2.listFits.errorUp b ch⟩
  errorDown b l ch h := ⟨lineSilent_closed.errorDown b l ch h.1, h.2.listFits.errorDown b ch⟩
  bar b l h := ⟨lineSilent_closed.bar b l h.1, settled_of_empty b rfl fun ch => by
    rw [barLine_chan]
    exact barChan_idle _⟩
  sense b l ch a h := ⟨lineSilent_closed.sense b l ch a h.1, h.2.setChan (sameDuty_sense a _)⟩
  gap b l ch n h ha := by
    have hd : SameDuty (chanOf l ch) (enterBackoff n (chanOf l ch)) :=
      ⟨rfl, rfl, by simp [enterBackoff, ha], fun _ => .inl ha⟩
    exact ⟨lineSilent_closed.gap b l ch n h.1 ha, h.2.setChan hd⟩
  begin b l ch bytes h ha := by
    have hd : SameDuty (chanOf l ch) (beginSending bytes (chanOf l ch)) :=
      ⟨rfl, rfl, by simp [beginSending, ha], fun _ => .inr ha⟩
    exact ⟨lineSilent_closed.begin b l ch bytes h.1 ha, h.2.setChan hd⟩
  dropLate b l ch h ha := ⟨lineSilent_closed.dropLate b l ch h.1 ha,
    (h.2.listFits.markIdle .dropped _ rfl).settled b⟩
  next b l ch rest h ha := ⟨lineSilent_closed.next b l ch rest h.1 ha,
    h.2.setChan (sameDuty_of_access rfl rfl rfl)⟩
  sent b l ch h ha := ⟨lineSilent_closed.sent b l ch h.1 ha,
    (h.2.listFits.markIdle .sent _ rfl).settled b⟩
  failed b l ch h ha := ⟨lineSilent_closed.failed b l ch h.1 ha, h.2.listFits.attemptFailed b ha⟩
  missing b l ch h ha := ⟨lineSilent_closed.missing b l ch h.1 ha,
    (h.2.listFits.errorUp b ch).listFits.attemptFailed b (lineErrorUp_sending b ha)⟩
  guard b l ch h ha := ⟨lineSilent_closed.guard b l ch h.1 ha,
    h.2.listFits.judgeChan b fun hne => absurd (cutChan_idle ha) hne⟩
  enable b l ch h hst hb := ⟨lineSilent_closed.enable b l ch h.1 hst hb,
    h.2.listFits.judgeChan b fun hne => absurd rfl hne⟩
  disable b l ch h := ⟨lineSilent_closed.disable b l ch h.1,
    h.2.listFits.judgeChan b fun hne => absurd rfl hne⟩
  reset x y := ⟨lineSilent_closed.reset x y, settled_of_empty false rfl fun ch => by cases ch <;> rfl⟩

/-- Settles O11. -/
theorem sendListIsKeptSettled : Obligations.SendListIsKeptSettled := by
  have h := line_kept settled_closed
  intro s t hs hst
  rw [settledLaw_iff] at hs ⊢
  exact h s t hs hst

end Sys2Proof.Machine
end

section
/-! SUPPORT. What follows at once on the line, opened field by field. -/

namespace Sys2Proof.Machine

/-! ## The sending set and the report outcome -/

/-- The sending set: the GOOD channels, or the DEGRADED ones where no channel is GOOD (R59). -/
theorem inSendingSet_iff (l : Line) (ch : Channel) :
    inSendingSet l ch = true ↔
      (chanOf l ch).state = .good
        ∨ ((chanOf l ch).state = .degraded ∧ ∀ x, (chanOf l x).state ≠ .good) := by
  have hall : (∀ x, (chanOf l x).state ≠ .good) ↔ l.l.state ≠ .good ∧ l.h.state ≠ .good :=
    ⟨fun h => ⟨h .l, h .h⟩, fun h => fun | .l => h.1 | .h => h.2⟩
  simp [inSendingSet, hall, and_assoc]

/-- The report outcome once entries have left whose last REPORT is this one (R60). -/
def outcomeOfLast (o : ReportOutcome) : Option Entry → ReportOutcome
  | none => o
  | some e => if e.statusL = .sent ∨ e.statusH = .sent then .sent else .notSent

/-- Of the entries that leave, the last REPORT gives the report outcome (R60). -/
theorem foldl_outcomeOnLeave_eq (es : List Entry) (o : ReportOutcome) :
    es.foldl outcomeOnLeave o = outcomeOfLast o (es.filter fun e => e.kind == .report).getLast? := by
  induction es generalizing o with
  | nil => rfl
  | cons e rest ih =>
    rw [List.foldl_cons, ih]
    cases hk : e.kind with
    | presence => simp [outcomeOnLeave, hk]
    | report =>
      simp only [List.filter_cons, hk, beq_self_eq_true, if_true, List.getLast?_cons]
      cases (rest.filter fun e => e.kind == .report).getLast? with
      | none => simp [outcomeOfLast, outcomeOnLeave, hk]
      | some x => rfl

/-- An entry stays where it is PENDING on a channel of the sending set, or while that set is empty (R60). -/
def stays (l : Line) (e : Entry) : Bool :=
  !(inSendingSet l .l || inSendingSet l .h) || (inSendingSet l .l && e.statusL == .pending)
    || (inSendingSet l .h && e.statusH == .pending)

theorem remaining_eq_stays (l : Line) : remaining l = l.sendList.filter (stays l) := remaining_eq l

/-- The report outcome of a judged line follows the entries that leave (R60). -/
theorem judgeLine_outcome (live : Bool) (l : Line) :
    (judgeLine live l).outcome
      = (l.sendList.filter fun e => !stays l e).foldl outcomeOnLeave l.outcome := by
  have hdone : ∀ e, (inSendingSet l .l || inSendingSet l .h) = true → (!stays l e) = entryDone l e := by
    intro e h
    simp only [stays, entryDone, h, bne]
    cases inSendingSet l .l <;> cases inSendingSet l .h <;> simp
  show (leaveEntries (lapseChans l)).outcome = _
  unfold leaveEntries
  simp only [lapseChans_inSendingSet]
  split
  · rename_i h
    simp only [hdone _ h]
    rw [funext (entryDone_congr (lapseChans_inSendingSet l))]
    rfl
  · rename_i h
    simp [stays, Bool.eq_false_iff.mpr h, lapseChans]

/-! ## A channel inside and outside the sending set -/

/-- Out of the sending set a channel is only judged by R59. -/
theorem judgeLine_chan_outside (live : Bool) {l : Line} {ch : Channel} (h : inSendingSet l ch = false) :
    chanOf (judgeLine live l) ch = lapseChan false (chanOf l ch) := by
  have hacc := (lapseChan_access false (chanOf l ch)).resolve_left (by simp)
  have hnw : (lapseChan false (chanOf l ch)).access ≠ .defer
      ∧ (lapseChan false (chanOf l ch)).access ≠ .backoff := by
    rcases hacc.2 with ha | ⟨ha, _⟩ <;> simp [ha]
  rw [judgeLine_chan, h, freeChan_of_not_waiting _ hnw, Bool.and_false]
  rfl

/-- In the sending set a channel is freed where its entry has left, and then commits (R58, R62, R63). -/
theorem judgeLine_chan_inside (live : Bool) {l : Line} {ch : Channel} (h : inSendingSet l ch = true) :
    chanOf (judgeLine live l) ch
      = commitChan (live && !l.barred) ch (remaining l) (freeChan (remaining l) (chanOf l ch)) := by
  rw [judgeLine_chan, h, Bool.and_true]
  rfl

/-- A channel in DEFER or BACKOFF is freed exactly where its entry is not in the list (R58, R63). -/
theorem freeChan_of_waiting {c : Chan} (es : List Entry) (h : c.access = .defer ∨ c.access = .backoff) :
    freeChan es c = if inList es c.committed then c else toIdleFresh c := by
  unfold freeChan
  cases inList es c.committed <;> simp [h]

/-- A channel that may not commit, or has nothing PENDING, stays (R62). -/
theorem commitChan_of_none {may : Bool} {ch : Channel} {es : List Entry} (c : Chan)
    (h : may = false ∨ ∀ e ∈ es, statusOf e ch ≠ .pending) : commitChan may ch es c = c := by
  rcases commitChan_cases may ch es c with ⟨heq, _⟩ | ⟨e, he, hmay, _, _⟩
  · exact heq
  · rcases h with h | h
    · rw [h] at hmay
      cases hmay
    · exact absurd (by simpa using List.find?_some he) (h e (List.mem_of_find?_eq_some he))

/-- An IDLE channel that may commit takes the first entry PENDING for it (R62). -/
theorem commitChan_first {ch : Channel} {before after : List Entry} {e : Entry} {c : Chan}
    (ha : c.access = .idle) (he : statusOf e ch = .pending)
    (hbefore : ∀ x ∈ before, statusOf x ch ≠ .pending) :
    commitChan true ch (before ++ e :: after) c
      = toDefer { c with committed := some e.serial, attempts := 0, lapsed := false } := by
  have hfind : (before ++ e :: after).find? (fun x => statusOf x ch == .pending) = some e := by
    rw [List.find?_append, List.find?_eq_none.mpr fun x hx => by simpa using hbefore x hx]
    simp [he]
  simp [commitChan, ha, hfind]

/-- Settles O60. -/
theorem whatFollowsOnTheLine : Obligations.WhatFollowsOnTheLine := by
  intro live l t pending _ _
  have hlist : t.sendList = remaining l := judgeLine_sendList live l
  refine ⟨inSendingSet_iff l, ?_, ?_, judgeLine_barred live l, judgeLine_filter live l,
    judgeLine_nextSerial live l, fun ch => ?_⟩
  · exact hlist.trans (remaining_eq_stays l)
  · exact (judgeLine_outcome live l).trans (foldl_outcomeOnLeave_eq _ _)
  · intro k idle waiting listed
    have hpending : ∀ e, pending ch e = true ↔ statusOf e ch = .pending := fun e => by
      cases ch <;> exact beq_iff_eq
    have hsettled : ∀ e, pending ch e = false → statusOf e ch ≠ .pending := fun e h hp => by
      rw [(hpending e).mpr hp] at h
      cases h
    have hlisted : listed ↔ inList (remaining l) k.committed = true := by
      rw [inList_iff, ← hlist]
    refine ⟨fun hout => ?_, fun hin => ?_⟩
    · rw [show chanOf t ch = lapseChan false k from judgeLine_chan_outside live hout]
      refine ⟨fun ha => by simp [lapseChan, ha], fun hw => ?_, fun ha => ?_⟩
      · rcases hw with ha | ha <;> simp only [lapseChan, ha] <;> rfl
      · rw [lapseChan_of_sending false ha]
        simp
    · rw [show chanOf t ch = commitChan (live && !l.barred) ch (remaining l) (freeChan (remaining l) k)
        from judgeLine_chan_inside live hin, hlist]
      refine ⟨fun ha => ?_, fun hw hl => ?_, fun k0 hk0 => ?_⟩
      · rw [freeChan_of_not_waiting _ (by simp [ha]), commitChan_of_busy _ _ _ (by simp [ha])]
      · rw [freeChan_of_waiting _ hw, if_pos (hlisted.mp hl), commitChan_of_busy]
        rcases hw with ha | ha <;> simp [ha]
      · have hfree : freeChan (remaining l) k = k0 ∧ k0.access = .idle ∧ k0.cs = k.cs := by
          rcases hk0 with ⟨ha, rfl⟩ | ⟨hw, hnl, rfl⟩
          · exact ⟨freeChan_of_not_waiting _ (by simp [ha]), ha, rfl⟩
          · rw [freeChan_of_waiting _ hw, if_neg fun h => hnl (hlisted.mpr h)]
            exact ⟨rfl, rfl, rfl⟩
        obtain ⟨hfree, hidle, hcs⟩ := hfree
        rw [hfree]
        refine ⟨fun hnone => commitChan_of_none k0 ?_, fun hl hb before e after hsplit he hbefore => ?_⟩
        · rcases hnone with h | h | h
          · exact .inl (by simp [h])
          · exact .inl (by simp [h])
          · exact .inr fun e he => hsettled e (h e he)
        · rw [hl, hb, hsplit]
          rw [← hcs]
          exact commitChan_first hidle ((hpending e).mp he) fun x hx => hsettled x (hbefore x hx)

end Sys2Proof.Machine
end

section
/-! SUPPORT. The send list as frames join it. -/

namespace Sys2Proof.Machine

/-! ## Overflow -/

/-- The oldest entry of a kind is looked for behind the entries of the other kind (R58). -/
theorem removeOldest_append {k : FrameKind} {as : List Entry} (h : ∀ e ∈ as, e.kind ≠ k) (bs : List Entry) :
    removeOldest k (as ++ bs) = as ++ removeOldest k bs := by
  induction as with
  | nil => rfl
  | cons a as ih =>
    rw [List.forall_mem_cons] at h
    rw [List.cons_append, removeOldest, if_neg h.1, ih h.2, List.cons_append]

/-- Among entries of one kind the oldest is the first (R58). -/
theorem removeOldest_of_all {k : FrameKind} {es : List Entry} (h : ∀ e ∈ es, e.kind = k) :
    removeOldest k es = es.tail := by
  cases es with
  | nil => rfl
  | cons e es => rw [removeOldest, if_pos (h e (List.mem_cons_self ..)), List.tail_cons]

/-- A list in list order is its REPORTs and then its PRESENCEs (R57). -/
theorem reportsFirst_split {es : List Entry} (h : ReportsFirst es) :
    es = (es.filter fun e => e.kind == .report) ++ es.filter fun e => e.kind == .presence := by
  induction es with
  | nil => rfl
  | cons e rest ih =>
    obtain ⟨hfirst, hrest⟩ := List.pairwise_cons.mp h
    cases hk : e.kind with
    | report =>
      simp only [List.filter_cons, hk, beq_self_eq_true, if_true, List.cons_append]
      exact congrArg (e :: ·) (ih hrest)
    | presence =>
      have hall : ∀ x ∈ rest, x.kind = .presence := fun x hx => hfirst x hx hk
      have hnone : (rest.filter fun x => x.kind == .report) = [] :=
        List.filter_eq_nil_iff.mpr fun x hx => by simp [hall x hx]
      have hkeep : (rest.filter fun x => x.kind == .presence) = rest :=
        List.filter_eq_self.mpr fun x hx => by simp [hall x hx]
      simp [hk, hnone, hkeep]

/-- A list without a PRESENCE holds REPORTs alone. -/
theorem all_reports {es : List Entry} (h : (es.filter fun e => e.kind == .presence) = []) :
    ∀ e ∈ es, e.kind = .report := by
  intro e he
  have := List.filter_eq_nil_iff.mp h e he
  cases hk : e.kind with
  | report => rfl
  | presence => simp [hk] at this

/-- Nothing leaves a list of fewer than four entries (R58). -/
theorem makeRoom_of_short {l : Line} (h : l.sendList.length < 4) : makeRoom l = l := if_pos h

/-- A full list that holds a PRESENCE loses its oldest one (R58). -/
theorem makeRoom_of_presence {l : Line} (hlen : ¬ l.sendList.length < 4)
    (h : (l.sendList.filter fun e => e.kind == .presence) ≠ []) :
    makeRoom l = { l with sendList := removeOldest .presence l.sendList } := by
  have hany : (l.sendList.any fun e => e.kind == .presence) = true := by
    by_contra hno
    exact h (List.filter_eq_nil_iff.mpr fun e he hk => hno (List.any_eq_true.mpr ⟨e, he, hk⟩))
  rw [makeRoom, if_neg hlen, if_pos hany]

/-- A full list of REPORTs loses its oldest one, and the report outcome follows R60 (R58). -/
theorem makeRoom_of_reports {l : Line} (hlen : ¬ l.sendList.length < 4)
    (h : (l.sendList.filter fun e => e.kind == .presence) = []) :
    makeRoom l =
      { l with sendList := l.sendList.tail
               outcome := (l.sendList.take 1).foldl outcomeOnLeave l.outcome } := by
  have hall := all_reports h
  have hany : ¬ (l.sendList.any fun e => e.kind == .presence) = true := by
    rw [List.any_eq_true]
    rintro ⟨e, he, hk⟩
    simp [hall e he] at hk
  rw [makeRoom, if_neg hlen, if_neg hany, removeOldest_of_all hall]

/-- The list once there is room (R58). -/
theorem makeRoom_sendList {l : Line} (hord : ReportsFirst l.sendList) :
    (makeRoom l).sendList =
      if l.sendList.length < 4 then l.sendList
      else if (l.sendList.filter fun e => e.kind == .presence) = [] then l.sendList.tail
      else (l.sendList.filter fun e => e.kind == .report)
        ++ (l.sendList.filter fun e => e.kind == .presence).tail := by
  split
  · rw [makeRoom_of_short ‹_›]
  · split
    · rw [makeRoom_of_reports ‹_› ‹_›]
    · rw [makeRoom_of_presence ‹_› ‹_›]
      show removeOldest .presence l.sendList = _
      conv_lhs => rw [reportsFirst_split hord]
      have hreports : ∀ e ∈ l.sendList.filter fun e => e.kind == .report, e.kind ≠ .presence := fun e he => by
        simp [(by simpa using List.of_mem_filter he : e.kind = .report)]
      have hpresences : ∀ e ∈ l.sendList.filter fun e => e.kind == .presence, e.kind = .presence :=
        fun e he => by simpa using List.of_mem_filter he
      rw [removeOldest_append hreports, removeOldest_of_all hpresences]

/-- The list already holds a frame of this kind and ID (R57). -/
theorem hasKey_iff (l : Line) (k : FrameKind) (id : IntervalId) :
    hasKey l k id = true ↔ ∃ e ∈ l.sendList, e.kind = k ∧ e.id = id := by
  simp [hasKey]

/-- Settles O38. -/
theorem framesJoinTheSendList : Obligations.FramesJoinTheSendList := by
  refine ⟨fun kind id net l hord hlen => ?_, fun live id net l => ⟨fun hb => ?_, fun hb => ?_⟩⟩
  · intro e reports presences kept
    obtain ⟨hl, hh, hb, hf, hn⟩ := addEntry_frame kind id net l
    have hroom : (makeRoom l).sendList = kept := makeRoom_sendList hord
    have hlist : (addEntry kind id net l).sendList = insertEntry e kept := by
      rw [← hroom]
      show insertEntry ⟨(makeRoom l).nextSerial, _, _, _, _, _⟩ _ = _
      rw [(makeRoom_frame l).2.2.2.2]
    refine ⟨?_, ?_, hn, hl, hh, hb, hf, fun hor => ?_, fun oldest rest hfull hnone hsplit => ?_⟩
    · rw [hlist]
      cases kind <;> rfl
    · rw [hlist, insertEntry_length, ← hroom]
      have := makeRoom_length hlen
      omega
    · show (makeRoom l).outcome = l.outcome
      by_cases hlt : l.sendList.length < 4
      · rw [makeRoom_of_short hlt]
      · rw [makeRoom_of_presence hlt (hor.resolve_left hlt)]
    · have hold : oldest.kind = .report := all_reports hnone oldest (by simp [hsplit])
      show (makeRoom l).outcome = _
      rw [makeRoom_of_reports (by omega) hnone, hsplit]
      simp [outcomeOnLeave, hold]
  · exact ⟨by rw [handReport, if_pos hb], by simp [handPresence, hb]⟩
  · have hkey : ∀ k, (∀ e ∈ l.sendList, e.kind = k → e.id ≠ id) → hasKey l k id = false := by
      intro k h
      rw [Bool.eq_false_iff, Ne, hasKey_iff]
      rintro ⟨e, he, hk, hid⟩
      exact h e he hk hid
    refine ⟨fun e he hk hid => ?_, fun e he hk hid => ?_, fun h => ?_, fun h => ?_⟩
    · simp [handReport, hb, (hasKey_iff l .report id).mpr ⟨e, he, hk, hid⟩]
    · simp [handPresence, (hasKey_iff l .presence id).mpr ⟨e, he, hk, hid⟩]
    · simp [handReport, hb, hkey .report h]
    · simp [handPresence, hb, hkey .presence h]

end Sys2Proof.Machine
end

section
/-! SUPPORT. A complete frame that is dropped, and one that is accepted in RUN. -/

namespace Sys2Proof.Machine

/-! ## COMPLETE_FRAME -/

/-- COMPLETE_FRAME of a frame of its expected length (R70, R71). -/
theorem exec_completeFrame {s : State} {c : Setup} {ch : Channel} {bytes : List Byte}
    (hn : nothingDue s = true) (hc : s.config = some c) (hr : (chanOf s.line ch).recv = .receiving)
    (hlen : expectedLength (bytes.getD 0 0) = some bytes.length) :
    exec (.completeFrame ch bytes) s = .next (judgeFrame c ch bytes (setRecv ch .ready s)) := by
  rw [exec_after]
  simp only [after, takeDue_of_nothingDue hn, frameCompletes, hc, hr, if_true, hlen]

/-- A frame in the channel's favour on a channel that is not OFF (R59, R72). -/
theorem countGood_setRecv {s : State} {ch : Channel} (r : RecvState)
    (hoff : (chanOf s.line ch).state ≠ .off) :
    countGood ch (setRecv ch r s) =
      { s with
        line :=
          judgeLine (isLive s)
            (setChan s.line ch
              { chanOf s.line ch with
                recv := r
                errors := (chanOf s.line ch).errors - 1
                state :=
                  if (chanOf s.line ch).state = .degraded ∧ (chanOf s.line ch).errors ≤ 1 then .good
                  else (chanOf s.line ch).state }) } := by
  simp [countGood, setRecv, lineErrorDown, setChan_setChan, errorDown, hoff, isLive]

theorem chanOf_setChan (l : Line) (ch x : Channel) (c : Chan) :
    chanOf (setChan l ch c) x = if x = ch then c else chanOf l x := by
  split
  · rename_i hx
    rw [hx, chanOf_setChan_same]
  · exact chanOf_setChan_other l c ‹_›

theorem barChan_frame (c : Chan) : (barChan c).state = c.state ∧ (barChan c).errors = c.errors := by
  unfold barChan cutChan
  (repeat' split) <;> exact ⟨rfl, rfl⟩

/-- Settles O40. -/
theorem framesThatAreDropped : Obligations.FramesThatAreDropped := by
  intro s c ch bytes hn hc hoff hr hlen hcheck hform f k
  have hfilter : (setRecv ch .ready s).line.filter = s.line.filter := setChan_filter ..
  have hexec := exec_completeFrame hn hc hr hlen
  unfold judgeFrame at hexec
  rw [hfilter] at hexec
  refine ⟨fun hgroup => ?_, fun hgroup hst => ?_, fun hgroup hst hkey => ?_⟩
  · have hout : frameOutcome c s.line.filter bytes = .foreign := by
      simp [frameOutcome, hcheck, hform, show (readFrame bytes).group ≠ c.group from hgroup]
    rw [hexec, hout]
    rfl
  · intro t
    have hout : frameOutcome c s.line.filter bytes = .duplicateStation := by
      simp [frameOutcome, hcheck, hform, show (readFrame bytes).group = c.group from hgroup,
        show (readFrame bytes).station = c.station from hst]
    have hchan : ∀ x, chanOf t x = barChan (if x = ch then k else chanOf s.line x) := fun x => by
      rw [barLine_chan, chanOf_setChan]
    refine ⟨by rw [hexec, hout]; rfl, rfl, rfl, fun x => ?_, ?_, setChan_filter .., setChan_nextSerial ..,
      fun x => ?_⟩
    · rw [hchan, (barChan_frame _).1, (barChan_frame _).2]
      by_cases hx : x = ch
      · rw [if_pos hx, hx]
        exact ⟨barChan_idle _, rfl, rfl⟩
      · rw [if_neg hx]
        exact ⟨barChan_idle _, rfl, rfl⟩
    · show (setChan s.line ch k).sendList.foldl outcomeOnLeave (setChan s.line ch k).outcome = _
      rw [setChan_sendList, setChan_outcome, foldl_outcomeOnLeave_eq]
      rfl
    · intro k0 idle
      rw [hchan]
      refine ⟨fun ha => ?_, fun hw => ?_, fun ha => ?_⟩
      · rw [barChan, ha]
      · rcases hw with ha | ha <;> rw [barChan, ha] <;> rfl
      · rw [barChan, ha]
        exact if_pos ha
  · have hout : frameOutcome c s.line.filter bytes = .duplicate := by
      simp [frameOutcome, hcheck, hform, show (readFrame bytes).group = c.group from hgroup,
        show (readFrame bytes).station ≠ c.station from hst,
        show frameKey (readFrame bytes) ∈ s.line.filter from hkey]
    rw [hexec, hout]
    exact congrArg _ (countGood_setRecv .ready hoff)

/-! ## The duplicate filter -/

theorem keysUnder_append (k : FilterKey) (f : List FilterKey) :
    keysUnder k (f ++ [k]) = keysUnder k f ++ [k] := by
  simp [keysUnder]

/-- The oldest key under a station and kind goes, and no other (R73). -/
theorem keysUnder_dropOldestKey (k : FilterKey) (f : List FilterKey) :
    keysUnder k (dropOldestKey k f) = (keysUnder k f).tail := by
  induction f with
  | nil => rfl
  | cons x rest ih =>
    by_cases hx : x.station = k.station ∧ x.kind = k.kind
    · simp [dropOldestKey, keysUnder, hx]
    · simp only [keysUnder] at ih
      simp [dropOldestKey, keysUnder, hx, ih]

theorem mem_dropOldestKey {k x : FilterKey} (h : ¬ (x.station = k.station ∧ x.kind = k.kind))
    (f : List FilterKey) : x ∈ dropOldestKey k f ↔ x ∈ f := by
  induction f with
  | nil => rfl
  | cons y rest ih =>
    by_cases hy : y.station = k.station ∧ y.kind = k.kind
    · have hne : x ≠ y := fun he => h (he ▸ hy)
      rw [dropOldestKey, if_pos hy, List.mem_cons, or_iff_right hne]
    · rw [dropOldestKey, if_neg hy, List.mem_cons, List.mem_cons, ih]

/-- Settles O41. -/
theorem frameAcceptedInRun : Obligations.FrameAcceptedInRun := by
  refine ⟨fun s c ch bytes hn hc hop hoff hr hlen hcheck => ?_, fun k f => ?_⟩
  · intro f key k hform hgroup hst hkey
    have hlive : isLive s = true := by simp only [isLive, opLive, hop]
    rw [exec_completeFrame_accepted hn hc hoff hr hlen (frameOutcome_accepted hcheck hform hgroup hst hkey),
      hlive]
    simp only [passOn, hop]
    rfl
  · have hshort : (keysUnder k f).length < 4 → enterKey k f = f ++ [k] := fun h => if_pos h
    have hlong : 4 ≤ (keysUnder k f).length → enterKey k f = dropOldestKey k f ++ [k] := fun h =>
      if_neg (by omega)
    refine ⟨mem_enterKey k f, fun h4 => ?_, hshort, fun h4 => ?_, fun x hx => ?_⟩
    · rcases Nat.lt_or_eq_of_le h4 with h | h
      · rw [hshort h, keysUnder_append, List.length_append]
        exact h
      · rw [hlong h.ge, keysUnder_append, keysUnder_dropOldestKey]
        simp [h]
    · rw [hlong h4, keysUnder_append, keysUnder_dropOldestKey]
    · have hne : x ≠ k := fun he => hx (he ▸ ⟨rfl, rfl⟩)
      unfold enterKey
      split <;> simp [hne, mem_dropOldestKey hx]

end Sys2Proof.Machine
end

section
/-! SUPPORT. Carrier sense, the quiet gap, and ENABLE_CHANNEL. -/

namespace Sys2Proof.Machine

/-! ## Carrier sense and the quiet gap -/

/-- In IDLE and SENDING, and in BACKOFF as CS falls, a change of CS is only that (R63, R64). -/
theorem senseChan_of_unmoved {c : Chan} {active : Bool}
    (h : c.access = .idle ∨ c.access = .sending ∨ (c.access = .backoff ∧ active = false)) :
    senseChan active c = { c with cs := active } := by
  cases c
  rcases h with rfl | rfl | ⟨rfl, rfl⟩ <;> rfl

/-- In DEFER a change of CS abandons the quiet gap or starts it (R63). -/
theorem senseChan_of_defer {c : Chan} (active : Bool) (h : c.access = .defer) :
    senseChan active c = { c with cs := active, gapTimer := gapOnEntry active } := by
  cases c
  obtain rfl : _ = AccessState.defer := h
  rfl

/-- In BACKOFF activity sends the channel back to DEFER (R64). -/
theorem senseChan_of_backoff {c : Chan} (h : c.access = .backoff) :
    senseChan true c = toDefer { c with cs := true } := by
  cases c
  obtain rfl : _ = AccessState.backoff := h
  rfl

theorem exec_carrierSenseChange {s : State} {ch : Channel} {active : Bool} (hn : nothingDue s = true) :
    exec (.carrierSenseChange ch active) s = .next (carrierChanges ch active s) := by
  rw [exec_after, after, takeDue_of_nothingDue hn]

theorem exec_quietGap {s : State} {ch : Channel} (hn : nothingDue s = true) :
    exec (.quietGap ch) s = .next (gapCompletes ch s) := by
  rw [exec_after, after, takeDue_of_nothingDue hn]

theorem exec_backoffEnd {s : State} {ch : Channel} (hn : nothingDue s = true) :
    exec (.backoffEnd ch) s = .next (backoffEnds ch s) := by
  rw [exec_after, after, takeDue_of_nothingDue hn]

/-- A draw lies in the range of R64. -/
theorem drawnSlots_le (s : State) (a : Nat) : drawnSlots s a ≤ 2 ^ min (a + 1) 5 - 1 :=
  Nat.le_sub_one_of_lt (Nat.mod_lt _ (Nat.pow_pos (by omega)))

/-- Settles O43. -/
theorem carrierSenseAndBackoff : Obligations.CarrierSenseAndBackoff := by
  refine ⟨fun s ch active hn => ?_, fun s ch hn => ?_⟩
  · intro k k'
    rw [exec_carrierSenseChange hn, carrierChanges]
    refine ⟨fun hcs => by rw [if_pos hcs], fun hcs => ?_⟩
    rw [if_neg hcs]
    refine ⟨fun ha => ?_, fun ha => ?_, fun ha hact => ?_⟩
    · rw [senseChan_of_unmoved ha]
    · rw [senseChan_of_defer active ha]
      rfl
    · subst hact
      rw [senseChan_of_backoff ha]
      rfl
  · intro k
    rw [exec_quietGap hn, gapCompletes]
    refine ⟨fun ha hcs => ⟨drawnSlots s k.attempts, drawnSlots_le s _, ?_⟩, fun hno => ?_⟩
    · intro t
      rw [if_pos ⟨ha, hcs⟩, exec_backoffEnd (s := t) hn]
      dsimp only
      split <;> rfl
    · have : ¬ ((chanOf s.line ch).access = .defer ∧ (chanOf s.line ch).cs = false) := by
        rintro ⟨ha, hcs⟩
        rcases hno with h | h
        · exact h ha
        · rw [show k.cs = false from hcs] at h
          cases h
      rw [if_neg this]

/-! ## ENABLE_CHANNEL -/

theorem channelOf_of_code {b : Byte} {ch : Channel} (h : b.toNat = (match ch with | .l => 0 | .h => 1)) :
    channelOf b = some ch := by
  cases ch <;> simp only [channelOf, h]

theorem channelOf_of_large {b : Byte} (h : 1 < b.toNat) : channelOf b = none := by
  unfold channelOf
  split
  · omega
  · omega
  · rfl

theorem actionOf_of_large {b : Byte} (h : 1 < b.toNat) : actionOf b = none := by
  unfold actionOf
  split
  · omega
  · omega
  · rfl

/-- ENABLE_CHANNEL of a channel and an action that exist (R76). -/
theorem exec_enableChannel {s : State} {channel action : Byte} {ch : Channel} {enable : Bool}
    (hn : nothingDue s = true) (hl : isLive s = true) (hserve : s.port.serving = true)
    (hch : channelOf channel = some ch) (ha : actionOf action = some enable) :
    exec (.enableChannel channel action) s = .next
      (if channelActs enable (chanOf s.line ch).state then
        answered [0x0D#8, channel, action] 0xA0#8 [] (switchChannel ch enable s)
      else answered [0x0D#8, channel, action] 0xA6#8 [] s) := by
  rw [exec_after, after, served_takeDue hn hserve]
  simp only [enableChannelActs, hl, hch, ha, Bool.not_true, Bool.false_eq_true, if_false]
  split <;> rfl

/-- Settles O46. -/
theorem enableChannel : Obligations.EnableChannel := by
  intro s channel action hn hl hserve taken
  refine ⟨fun hbad => ?_, fun ch hcode => ?_⟩
  · rw [exec_after, after, served_takeDue hn hserve, enableChannelActs, hl]
    rcases hbad with h | h
    · rw [channelOf_of_large h]
      rfl
    · rw [actionOf_of_large h]
      cases channelOf channel <;> rfl
  · intro k idle
    have hon : action.toNat = 1 → actionOf action = some true := fun h => by simp only [actionOf, h]
    have hoff : action.toNat = 0 → actionOf action = some false := fun h => by simp only [actionOf, h]
    have hexec := fun enable (ha : actionOf action = some enable) =>
      exec_enableChannel hn hl hserve (channelOf_of_code hcode) ha
    refine ⟨fun h hst => ?_, fun h hst => ?_, fun h hst => ?_, fun h hst => ?_⟩
    · have hacts : channelActs true (chanOf s.line ch).state = false := by
        rcases hst with hst | hst <;> rw [show (chanOf s.line ch).state = _ from hst] <;> rfl
      rw [hexec true (hon h), hacts]
      rfl
    · have hacts : channelActs true (chanOf s.line ch).state = true := by
        rcases hst with hst | hst <;> rw [show (chanOf s.line ch).state = _ from hst] <;> rfl
      rw [hexec true (hon h), hacts, if_pos rfl, switchChannel, hl]
      rfl
    · have hacts : channelActs false (chanOf s.line ch).state = false := by
        rw [show (chanOf s.line ch).state = _ from hst]
        rfl
      rw [hexec false (hoff h), hacts]
      rfl
    · have hacts : channelActs false (chanOf s.line ch).state = true := by
        simpa [channelActs] using hst
      rw [hexec false (hoff h), hacts, if_pos rfl, switchChannel, hl]
      rfl

end Sys2Proof.Machine
end

section
/-! SUPPORT. The end of an attempt: echoes, the missing echo and the jabber guard. -/

namespace Sys2Proof.Machine

/-! ## Echoes -/

theorem exec_echo {s : State} {ch : Channel} {byte : Byte} {byteError : Bool} (hn : nothingDue s = true) :
    exec (.echo ch byte byteError) s = .next (echoArrives ch byte byteError s) := by
  rw [exec_after, after, takeDue_of_nothingDue hn]

theorem exec_missingEcho {s : State} {ch : Channel} (hn : nothingDue s = true) :
    exec (.missingEcho ch) s = .next (echoMissing ch s) := by
  rw [exec_after, after, takeDue_of_nothingDue hn]

theorem exec_jabberGuard {s : State} {ch : Channel} (hn : nothingDue s = true) :
    exec (.jabberGuard ch) s = .next (guardTrips ch s) := by
  rw [exec_after, after, takeDue_of_nothingDue hn]

/-- An echo on a sending channel fails the attempt, ends it, or brings the next byte (R65, R66). -/
theorem echoArrives_of_sending {s : State} {ch : Channel} {first : Byte} {rest : List Byte}
    (ha : (chanOf s.line ch).access = .sending) (hcopy : (chanOf s.line ch).copy = first :: rest)
    (byte : Byte) (byteError : Bool) :
    echoArrives ch byte byteError s =
      { s with
        line :=
          if byteError || byte != first then attemptFailed (isLive s) ch s.line
          else if rest.isEmpty then attemptSent (isLive s) ch s.line
          else nextByte ch rest s.line } := by
  simp only [echoArrives, ha, hcopy, if_true]
  (repeat' split) <;> rfl

/-! ## A failed attempt -/

/-- A failed attempt before the eighth, on a channel of the sending set that has not left it during the attempt
and whose entry is in the list, is tried again (R66). -/
theorem attemptFailed_again (live : Bool) {l : Line} {ch : Channel}
    (hlist : inList l.sendList (chanOf l ch).committed = true) (hfew : (chanOf l ch).attempts < 7)
    (hlapsed : (chanOf l ch).lapsed = false) (hin : inSendingSet l ch = true) :
    attemptFailed live ch l =
      judgeLine live
        (setChan l ch
          (recvAfterSending
            (toDefer { chanOf l ch with lapsed := false, attempts := (chanOf l ch).attempts + 1 }))) := by
  have hsame : { chanOf l ch with lapsed := false, attempts := (chanOf l ch).attempts + 1 }
      = { chanOf l ch with attempts := (chanOf l ch).attempts + 1 } := by rw [← hlapsed]
  rw [hsame]
  simp [attemptFailed, hlist, hlapsed, hin, show ¬ 8 ≤ (chanOf l ch).attempts + 1 by omega]

/-- The eighth failure drops the entry on the channel (R66). -/
theorem attemptFailed_eighth (live : Bool) {l : Line} {ch : Channel}
    (hlist : inList l.sendList (chanOf l ch).committed = true) (hmany : 7 ≤ (chanOf l ch).attempts) :
    attemptFailed live ch l =
      judgeLine live
        (setChan (setStatus ch .dropped (chanOf l ch).committed l) ch
          (recvAfterSending (toIdleFresh (chanOf l ch)))) := by
  simp [attemptFailed, hlist, show 8 ≤ (chanOf l ch).attempts + 1 by omega]

/-- A failed attempt whose entry has left, or whose channel has left the sending set, is the last (R59, R66,
R68). -/
theorem attemptFailed_over (live : Bool) {l : Line} {ch : Channel}
    (h : inList l.sendList (chanOf l ch).committed = false
      ∨ ((chanOf l ch).attempts < 7 ∧ ((chanOf l ch).lapsed = true ∨ inSendingSet l ch = false))) :
    attemptFailed live ch l =
      judgeLine live (setChan l ch (recvAfterSending (toIdleFresh (chanOf l ch)))) := by
  unfold attemptFailed
  dsimp only
  by_cases hlist : inList l.sendList (chanOf l ch).committed = false
  · rw [if_pos hlist]
  · obtain ⟨hfew, hgone⟩ := h.resolve_left hlist
    have hout : ((chanOf l ch).lapsed || !inSendingSet l ch) = true := by simpa using hgone
    rw [if_neg hlist, if_neg (by omega), if_pos hout]

/-! ## Channels that do not send -/

theorem echoArrives_of_not_sending {s : State} {ch : Channel} (byte : Byte) (byteError : Bool)
    (h : (chanOf s.line ch).access ≠ .sending) : echoArrives ch byte byteError s = s := if_neg h

theorem echoMissing_of_not_sending {s : State} {ch : Channel}
    (h : (chanOf s.line ch).access ≠ .sending) : echoMissing ch s = s := if_neg h

theorem guardTrips_of_not_sending {s : State} {ch : Channel}
    (h : (chanOf s.line ch).access ≠ .sending) : guardTrips ch s = s := if_neg h

theorem backoffEnds_of_not_ready {s : State} {ch : Channel}
    (h : (chanOf s.line ch).access ≠ .backoff ∨ (chanOf s.line ch).cs = true) : backoffEnds ch s = s := by
  have hno : ¬ ((chanOf s.line ch).access = .backoff ∧ (chanOf s.line ch).cs = false) := by
    rintro ⟨ha, hcs⟩
    rcases h with h | h
    · exact h ha
    · rw [hcs] at h
      cases h
  unfold backoffEnds
  split
  · rfl
  · exact if_neg hno

/-! ## The missing echo -/

/-- A sending channel after one count against it: still in SENDING, marked where it is out of the sending set
(R59, R67, R72). -/
theorem lineErrorUp_chan_of_sending (live : Bool) {l : Line} {ch : Channel}
    (ha : (chanOf l ch).access = .sending) :
    chanOf (lineErrorUp live ch l) ch =
      { errorUp (chanOf l ch) with
        lapsed :=
          (errorUp (chanOf l ch)).lapsed || !inSendingSet (setChan l ch (errorUp (chanOf l ch))) ch } := by
  have hsend : (chanOf (setChan l ch (errorUp (chanOf l ch))) ch).access = .sending := by
    rw [chanOf_setChan_same, (errorUp_access _).1, ha]
  rw [lineErrorUp, judgeLine_chan_of_sending live hsend, chanOf_setChan_same]

/-- MISSING_ECHO of a sending channel that is not OFF (R67, R72). -/
theorem echoMissing_of_sending {s : State} {ch : Channel} (ha : (chanOf s.line ch).access = .sending)
    (hoff : (chanOf s.line ch).state ≠ .off) :
    echoMissing ch s =
      { s with
        line := attemptFailed (isLive s) ch (lineErrorUp (isLive s) ch s.line)
        alerts :=
          if decide ((chanOf s.line ch).state = .good ∧ 32 ≤ (chanOf s.line ch).errors + 1) then
            { s.alerts with latches := s.alerts.latches ||| 0x20#9 }
          else s.alerts } := by
  rw [← becameDegraded_errorUp hoff]
  exact if_pos ha

/-! ## Marking an entry -/

/-- Marking changes the status of the committed entry on its channel alone, and the report outcome where a
REPORT of the list is marked SENT (R60, R65, R68). -/
theorem setStatus_spec (ch : Channel) (st : CopyStatus) (n : Option Nat) (l : Line) :
    (∀ i : Nat, (setStatus ch st n l).sendList[i]?
        = (l.sendList[i]?).map fun e => if n = some e.serial then withStatus ch st e else e)
      ∧ (setStatus ch st n l).outcome
          = if st = .sent ∧ ∃ e ∈ l.sendList, e.kind = .report ∧ n = some e.serial then .sent
            else l.outcome := by
  refine ⟨fun i => List.getElem?_map, ?_⟩
  have hany : (l.sendList.any fun e => n == some e.serial && e.kind == .report) = true
      ↔ ∃ e ∈ l.sendList, e.kind = .report ∧ n = some e.serial := by
    simp [and_comm]
  simp only [setStatus, hany]

/-- Settles O45. -/
theorem attemptsEnd : Obligations.AttemptsEnd := by
  refine ⟨fun s ch first rest hn => ?_,
    fun s ch byte byteError hn => ⟨fun ha => ⟨?_, ?_, ?_⟩, fun hb => ?_⟩, fun ch st committed l => ?_⟩
  · intro k ha hcopy idle
    refine ⟨fun hrest => ?_, fun hrest => ?_, fun byte byteError hbad => ?_, fun hst => ?_, ?_⟩
    · rw [exec_echo hn, echoArrives_of_sending ha hcopy, if_neg (by simp), if_neg (by simpa using hrest)]
      rfl
    · rw [exec_echo hn, echoArrives_of_sending ha hcopy, if_neg (by simp), if_pos (by simpa using hrest)]
      rfl
    · have hfail : (byteError || byte != first) = true := by simpa using hbad
      rw [exec_echo hn, echoArrives_of_sending ha hcopy, if_pos hfail]
      refine ⟨fun hlist hfew hlapsed hin => ?_, fun hlist hmany => ?_, fun hover => ?_⟩
      · rw [attemptFailed_again _ hlist hfew hlapsed hin]
        rfl
      · rw [attemptFailed_eighth _ hlist hmany]
        rfl
      · rw [attemptFailed_over _ hover]
        rfl
    · intro degrades counted l1 k1 idle1 ends
      have hoff : k.state ≠ .off := by rcases hst with h | h <;> simp [h]
      have hup : errorUp k
          = { k with errors := min 255 (k.errors + 1), state := if degrades then .degraded else k.state } :=
        errorUp_eq hoff
      have hl1 : lineErrorUp (isLive s) ch s.line = l1 := by rw [lineErrorUp, hup]
      have hk1 : chanOf l1 ch =
          { k with
            errors := min 255 (k.errors + 1)
            state := if degrades then .degraded else k.state
            lapsed := k.lapsed || !inSendingSet counted ch } := by
        rw [← hl1, lineErrorUp_chan_of_sending _ ha, hup]
      have hidle1 : idle1 =
          { idle with
            errors := min 255 (k.errors + 1)
            state := if degrades then .degraded else k.state
            attempts := 0 } := by
        show { idle with errors := (chanOf l1 ch).errors, state := (chanOf l1 ch).state, attempts := 0 } = _
        rw [hk1]
      have hset : inSendingSet l1 ch = inSendingSet counted ch := judgeLine_inSendingSet ..
      rw [exec_missingEcho hn, echoMissing_of_sending ha hoff, hl1]
      refine ⟨?_, fun hlist hfew hlapsed => ?_, fun hlist hmany => ?_, fun hover => ?_⟩
      · rw [show k1 = _ from hk1, chanOf_setChan_same]
      · have hin : inSendingSet l1 ch = true := by
          rw [show k1 = _ from hk1] at hlapsed
          rw [hset]
          exact (by simpa using hlapsed : k.lapsed = false ∧ inSendingSet counted ch = true).2
        rw [attemptFailed_again _ (by rw [hk1]; exact hlist) (by rw [hk1]; exact hfew) hlapsed hin, hk1,
          hidle1]
        rfl
      · rw [attemptFailed_eighth _ (by rw [hk1]; exact hlist) (by rw [hk1]; exact hmany), hk1, hidle1]
        rfl
      · have hover' : inList l1.sendList (chanOf l1 ch).committed = false
            ∨ ((chanOf l1 ch).attempts < 7 ∧ ((chanOf l1 ch).lapsed = true ∨ inSendingSet l1 ch = false)) := by
          rcases hover with h | ⟨hfew, hlapsed⟩
          · exact .inl (by rw [hk1]; exact h)
          · exact .inr ⟨by rw [hk1]; exact hfew, .inl hlapsed⟩
        rw [attemptFailed_over _ hover', hk1, hidle1]
        rfl
    · rw [exec_jabberGuard hn, guardTrips, if_pos ha, cutChan, if_pos ha]
      rfl
  · rw [exec_echo hn, echoArrives_of_not_sending _ _ ha]
  · rw [exec_missingEcho hn, echoMissing_of_not_sending ha]
  · rw [exec_jabberGuard hn, guardTrips_of_not_sending ha]
  · rw [exec_backoffEnd hn, backoffEnds_of_not_ready hb]
  · intro t sentReport
    obtain ⟨hget, hout⟩ := setStatus_spec ch st committed l
    refine ⟨List.length_map _, fun n e he => ⟨fun hne => ?_, fun heq => ?_⟩, fun h => hout.trans (if_pos h),
      fun h => hout.trans (if_neg h), rfl, inList_iff _ _⟩
    · rw [hget, he, Option.map_some, if_neg hne]
    · rw [hget, he, Option.map_some, if_pos heq]
      cases ch <;> rfl

end Sys2Proof.Machine
end

section
/-! SUPPORT. Group-line frames: the CRC-16 bit by bit, the fields of a layout, and the part's own frames. -/

namespace Sys2Proof.Machine

/-! ## The CRC-16 bit by bit -/

/-- One byte of the CRC-16 is eight steps of the division (R56). -/
theorem crcByte_eq_steps16 (poly r : BitVec 16) (b : Byte) :
    crcByte poly r b = (bitsMsbFirst b).foldl (crcStep poly) r := by
  have hout : (b.setWidth 16 <<< (16 - 8)) <<< 8 = 0#16 := by
    rw [← BitVec.shiftLeft_add, BitVec.shiftLeft_eq_zero (by decide)]
  have hbits : (List.range 8).map (b.setWidth 16 <<< (16 - 8)).getMsbD = (List.range 8).map b.getMsbD := by
    refine List.map_congr_left fun i _ => ?_
    rw [BitVec.getMsbD_shiftLeft, BitVec.getMsbD_setWidth, decide_eq_true (Nat.le_add_left ..), Bool.true_and]
    congr 1
  rw [crcByte, crcBits_xor, hout, hbits, BitVec.xor_zero, bitsMsbFirst_eq]

/-- The CRC-16 is the remainder of the division over all the bits of its bytes (R56). -/
theorem crc16_eq_steps (bytes : List Byte) :
    crc16 bytes = (bytes.flatMap bitsMsbFirst).foldl (crcStep 0x2D47#16) 0xFFFF#16 := by
  have hstep : crcByte 0x2D47#16 = fun r b => (bitsMsbFirst b).foldl (crcStep 0x2D47#16) r :=
    funext fun r => funext fun b => crcByte_eq_steps16 _ r b
  rw [crc16, List.foldl_flatMap, hstep]

/-! ## Fields -/

theorem beNat_append_singleton (bs : List Byte) (b : Byte) : beNat (bs ++ [b]) = 256 * beNat bs + b.toNat := by
  simp [beNat, Nat.mul_comm]

/-- A field is read most significant byte first: one byte more is one place more (R174). -/
theorem fieldAt_succ {bytes : List Byte} {off n : Nat} (h : off + n < bytes.length) :
    fieldAt bytes off (n + 1) = 256 * fieldAt bytes off n + (bytes.getD (off + n) 0x00#8).toNat := by
  have hget : (bytes.drop off)[n]? = some (bytes.getD (off + n) 0x00#8) := by
    rw [List.getElem?_drop, List.getD_eq_getElem?_getD, List.getElem?_eq_getElem h, Option.getD_some]
  rw [fieldAt, bytesAt, List.take_add_one, hget]
  exact beNat_append_singleton _ _

/-- A field of no bytes is 0. -/
theorem fieldAt_zero (bytes : List Byte) (off : Nat) : fieldAt bytes off 0 = 0 := by
  simp [fieldAt, bytesAt, beNat]

/-- The first byte as a field. -/
theorem fieldAt_first {bytes : List Byte} (h : 0 < bytes.length) :
    fieldAt bytes 0 1 = (bytes.getD 0 0x00#8).toNat := by
  rw [fieldAt_succ (by omega), fieldAt_zero, Nat.mul_zero, Nat.zero_add]

/-- A signed field is the unsigned one in two's complement (R174). -/
theorem signedOf_emod (bytes : List Byte) : signedOf bytes % 256 ^ bytes.length = beNat bytes := by
  have hlt : (beNat bytes : Int) < 256 ^ bytes.length := by exact_mod_cast beNat_lt bytes
  have hmod : (beNat bytes : Int) % 256 ^ bytes.length = beNat bytes :=
    Int.emod_eq_of_lt (by omega) hlt
  unfold signedOf
  push_cast
  split
  · exact hmod
  · rw [Int.sub_emod_right, hmod]

/-- The length that the kind fixes (R70). -/
theorem expectedLength_eq (b : Byte) :
    expectedLength b
      = if b.toNat / 16 = 1 then some 15 else if b.toNat / 16 = 2 then some 11 else none := by
  unfold expectedLength
  split
  · rename_i h
    rw [if_pos h]
  · rename_i h
    rw [if_neg (by omega), if_pos h]
  · rename_i h1 h2
    rw [if_neg h1, if_neg h2]

/-! ## The part's own frames -/

/-- A sealed frame passes the check of R56. -/
theorem frameCheck_sealFrame (body : List Byte) : frameCheck (sealFrame body) = true := by
  have hlen : (sealFrame body).length - 2 = body.length := by simp [sealFrame]
  have hcrc : (crc16 body).toNat < 256 ^ 2 := (crc16 body).isLt
  have hfield : fieldAt (sealFrame body) body.length 2 = (crc16 body).toNat := by
    rw [sealFrame, fieldAt_append le_rfl, Nat.sub_self, fieldAt_last, Nat.mod_eq_of_lt hcrc]
  have htake : (sealFrame body).take body.length = body := List.take_left ..
  rw [frameCheck, hlen, hfield, htake]
  exact beq_self_eq_true _

theorem bytesAt_skip {n off : Nat} (h : n ≤ off) (v : Nat) (rest : List Byte) (len : Nat) :
    bytesAt (beBytes n v ++ rest) off len = bytesAt rest (off - n) len := by
  rw [bytesAt_append_right (by simpa using h), beBytes_length]

theorem bytesAt_here (n : Nat) (v : Int) (rest : List Byte) :
    bytesAt (beInt n v ++ rest) 0 n = beInt n v := by
  rw [bytesAt_append_left (by simp)]
  simpa using bytesAt_zero_all (beInt n v)

/-- A REPORT, field after field (R175). -/
theorem reportFrame_eq (c : Setup) (id : IntervalId) (net : Int) (delay : Nat) :
    ∃ crc, reportFrame c id net delay =
      beBytes 1 (16 + c.station) ++ (beBytes 1 c.group ++ (beBytes 2 id.day ++ (beBytes 2 id.iod ++
        (beInt 4 net ++ (beBytes 1 c.lengthCode ++ (beBytes 2 delay ++ beBytes 2 crc)))))) := by
  simp only [reportFrame, sealFrame, kindStation, kindCode, idBytes, List.append_assoc, one_mul]
  exact ⟨_, rfl⟩

/-- A PRESENCE, field after field (R175). -/
theorem presenceFrame_eq (c : Setup) (op : OpState) (id : IntervalId) (blocks : Nat) :
    ∃ crc, presenceFrame c op id blocks =
      beBytes 1 (32 + c.station) ++ (beBytes 1 c.group ++ (beBytes 1 (opCode op * 16 + c.lengthCode) ++
        (beBytes 2 id.day ++ (beBytes 2 id.iod ++ (beBytes 2 blocks ++ beBytes 2 crc))))) := by
  simp only [presenceFrame, sealFrame, kindStation, kindCode, idBytes, List.append_assoc, Nat.reduceMul]
  exact ⟨_, rfl⟩

/-- The fields of a configuration and an ID that fit the bytes a frame gives them (R175). -/
structure FrameFits (c : Setup) (id : IntervalId) : Prop where
  station : c.station < 16
  group : c.group < 256
  code : c.lengthCode < 8
  day : id.day < 65536
  iod : id.iod < 65536

/-- What the fields of a REPORT read as (R54, R175). -/
theorem reportFrame_fields {c : Setup} {id : IntervalId} (h : FrameFits c id) (net : Int) {delay : Nat}
    (hdelay : delay < 65536) :
    (reportFrame c id net delay).length = 15
      ∧ bytesAt (reportFrame c id net delay) 6 4 = beInt 4 net
      ∧ fieldAt (reportFrame c id net delay) 0 1 = 16 + c.station
      ∧ fieldAt (reportFrame c id net delay) 1 1 = c.group
      ∧ fieldAt (reportFrame c id net delay) 2 2 = id.day
      ∧ fieldAt (reportFrame c id net delay) 4 2 = id.iod
      ∧ fieldAt (reportFrame c id net delay) 10 1 = c.lengthCode
      ∧ fieldAt (reportFrame c id net delay) 11 2 = delay := by
  obtain ⟨hst, hg, hcode, hday, hiod⟩ := h
  obtain ⟨crc, hbytes⟩ := reportFrame_eq c id net delay
  rw [hbytes]
  refine ⟨by simp, ?_, ?_⟩
  · simp only [bytesAt_skip, bytesAt_here, Nat.reduceLeDiff, Nat.reduceSub]
  · simp only [beInt, fieldAt_skip, fieldAt_here, Nat.reduceLeDiff, Nat.reduceSub]
    refine ⟨?_, ?_, ?_, ?_, ?_, ?_⟩ <;> exact Nat.mod_eq_of_lt (by omega)

/-- What the fields of a PRESENCE read as (R55, R175). -/
theorem presenceFrame_fields {c : Setup} {id : IntervalId} (h : FrameFits c id) (op : OpState) {blocks : Nat}
    (hblocks : blocks < 65536) :
    (presenceFrame c op id blocks).length = 11
      ∧ fieldAt (presenceFrame c op id blocks) 0 1 = 32 + c.station
      ∧ fieldAt (presenceFrame c op id blocks) 1 1 = c.group
      ∧ fieldAt (presenceFrame c op id blocks) 2 1 = opCode op * 16 + c.lengthCode
      ∧ fieldAt (presenceFrame c op id blocks) 3 2 = id.day
      ∧ fieldAt (presenceFrame c op id blocks) 5 2 = id.iod
      ∧ fieldAt (presenceFrame c op id blocks) 7 2 = blocks := by
  obtain ⟨hst, hg, hcode, hday, hiod⟩ := h
  have hop : opCode op ≤ 3 := by cases op <;> decide
  obtain ⟨crc, hbytes⟩ := presenceFrame_eq c op id blocks
  rw [hbytes]
  refine ⟨by simp, ?_⟩
  simp only [fieldAt_skip, fieldAt_here, Nat.reduceLeDiff, Nat.reduceSub]
  refine ⟨?_, ?_, ?_, ?_, ?_, ?_⟩ <;> exact Nat.mod_eq_of_lt (by omega)

/-- A REPORT is read back with every field as it was sent (R54, R175). -/
theorem readFrame_reportFrame {c : Setup} {id : IntervalId} (h : FrameFits c id) {net : Int} {delay : Nat}
    (hlo : -2 ^ 31 ≤ net) (hhi : net < 2 ^ 31) (hdelay : delay < 65536) :
    readFrame (reportFrame c id net delay) = ⟨c.station, c.group, id, c.lengthCode, .report net delay⟩ := by
  obtain ⟨-, hnet, hfirst, hgroup, hday, hiod, hcode, hdel⟩ := reportFrame_fields h net hdelay
  have hst := h.station
  have hlen := h.code
  rw [readFrame, hnet, signedOf_beInt (by omega) (by omega), hfirst, hgroup, hday, hiod, hcode, hdel,
    if_pos (by omega), Nat.mod_eq_of_lt hlen, show (16 + c.station) % 16 = c.station by omega]

/-- A PRESENCE is read back with every field as it was sent (R55, R175). -/
theorem readFrame_presenceFrame {c : Setup} {id : IntervalId} (h : FrameFits c id) (op : OpState)
    {blocks : Nat} (hblocks : blocks < 65536) :
    readFrame (presenceFrame c op id blocks)
      = ⟨c.station, c.group, id, c.lengthCode, .presence (opCode op) blocks⟩ := by
  obtain ⟨-, hfirst, hgroup, hstate, hday, hiod, hblk⟩ := presenceFrame_fields h op hblocks
  have hst := h.station
  have hlen := h.code
  rw [readFrame, hfirst, hgroup, hday, hiod, hstate, hblk, if_neg (by omega),
    show (32 + c.station) % 16 = c.station by omega,
    show (opCode op * 16 + c.lengthCode) % 8 = c.lengthCode by omega,
    show (opCode op * 16 + c.lengthCode) / 16 = opCode op by omega]

/-- The kind in the first byte gives the expected length (R70). -/
theorem expectedLength_of_first {bytes : List Byte} {kind station : Nat} (hlen : 0 < bytes.length)
    (hfirst : fieldAt bytes 0 1 = 16 * kind + station) (hst : station < 16) :
    expectedLength (bytes.getD 0 0)
      = if kind = 1 then some 15 else if kind = 2 then some 11 else none := by
  have hbyte : (bytes.getD 0 0x00#8).toNat = 16 * kind + station := (fieldAt_first hlen).symm.trans hfirst
  have hkind : (16 * kind + station) / 16 = kind := by omega
  rw [expectedLength_eq, show (bytes.getD 0 0).toNat = _ from hbyte, hkind]

/-- Settles O47. -/
theorem ownFramesReadBack : Obligations.OwnFramesReadBack := by
  refine ⟨fun c id hst hg hcode hday hiod => ⟨fun net delay hlo hhi hdelay => ?_,
    fun op blocks hop hblocks => ?_⟩, fun bytes => ?_, expectedLength_eq⟩
  · intro bytes
    have hfits : FrameFits c id := ⟨hst, hg, hcode, hday, hiod⟩
    obtain ⟨hlen, -, hfirst, -⟩ := reportFrame_fields hfits net hdelay
    have hkind := expectedLength_of_first (kind := 1) (lt_of_lt_of_eq (by decide) hlen.symm) hfirst hst
    exact ⟨hlen, hkind, frameCheck_sealFrame _, readFrame_reportFrame hfits hlo hhi hdelay⟩
  · intro bytes
    have hfits : FrameFits c id := ⟨hst, hg, hcode, hday, hiod⟩
    obtain ⟨hlen, hfirst, -⟩ := presenceFrame_fields hfits op hblocks
    have hkind := expectedLength_of_first (kind := 2) (lt_of_lt_of_eq (by decide) hlen.symm) hfirst hst
    refine ⟨hlen, hkind, frameCheck_sealFrame _, ?_⟩
    rw [readFrame_presenceFrame hfits op hblocks]
    rcases hop with rfl | rfl <;> rfl
  · intro bits first
    refine ⟨crc16_eq_steps bytes, ?_, fun hk hlen => ?_, fun hk hlen => ?_,
      fun n off h => ⟨fieldAt_zero bytes off, fieldAt_succ h⟩, signedOf_emod bytes, ?_⟩
    · exact beq_iff_eq
    · have hfirst : fieldAt bytes 0 1 = first := fieldAt_first (by omega)
      rw [readFrame, hfirst, if_pos hk]
    · have hfirst : fieldAt bytes 0 1 = first := fieldAt_first (by omega)
      rw [readFrame, hfirst, if_neg (by omega)]
    · exact_mod_cast signedOf_range bytes

end Sys2Proof.Machine
end

section
/-! SUPPORT. The law of the cap: every operation on the limiter leaves both caps between the base cap and
the ceiling cap. -/

namespace Sys2Proof.Machine

/-! ## The two caps -/

/-- The law of the cap over the two parts it reads: the configuration and the limiter (R105). -/
def CapFits (k : Option Setup) (e : Limiter) : Prop :=
  ∀ c, k = some c → c.baseCap ≤ c.ceilingCap ∧ CapBetween c e.effectiveCap ∧ CapBetween c e.pendingCap

/-- The law reads the two caps alone. -/
theorem CapFits.of_caps {k : Option Setup} {e f : Limiter} (h : CapFits k e)
    (heff : f.effectiveCap = e.effectiveCap) (hpend : f.pendingCap = e.pendingCap) : CapFits k f := by
  unfold CapFits
  rw [heff, hpend]
  exact h

theorem capBetween_none (c : Setup) : CapBetween c none := nofun

theorem capBetween_some {c : Setup} {n : Nat} : CapBetween c (some n) ↔ c.baseCap ≤ n ∧ n ≤ c.ceilingCap := by
  simp [CapBetween]

/-- A waiting cap that is taken was in range as it waited (R105). -/
theorem CapFits.takeCap {k : Option Setup} {e : Limiter} (h : CapFits k e) : CapFits k (takeCap e) := by
  intro c hc
  obtain ⟨hle, heff, hpend⟩ := h c hc
  obtain ⟨htaken, hnow⟩ := takeCap_caps e
  refine ⟨hle, ?_, htaken ▸ capBetween_none c⟩
  rw [hnow]
  split
  · rename_i n hn
    exact hn ▸ hpend
  · exact heff

/-- A judged block changes the caps only by taking a waiting one (R105, R107 to R110). -/
theorem judgeBlock_caps (c : Setup) (live : Bool) (net : Nat) (e : Limiter) :
    (judgeBlock c live net e).effectiveCap = (takeCap e).effectiveCap
      ∧ (judgeBlock c live net e).pendingCap = (takeCap e).pendingCap := by
  rcases judgeBlock_cases c live net e with he | he | he | ⟨_, _, he⟩ | he | he | he <;>
    rw [he] <;> exact ⟨rfl, rfl⟩

/-- A CUTOFF sample leaves the caps as they are (R116, R117). -/
theorem sampleLimiter_caps (b live : Bool) (e : Limiter) :
    (sampleLimiter b live e).effectiveCap = e.effectiveCap
      ∧ (sampleLimiter b live e).pendingCap = e.pendingCap := by
  have hfilter : (filterSample b e).effectiveCap = e.effectiveCap
      ∧ (filterSample b e).pendingCap = e.pendingCap := by
    unfold filterSample
    (repeat' split) <;> exact ⟨rfl, rfl⟩
  unfold sampleLimiter
  split <;> exact hfilter

/-! ## Every step -/

theorem capFits_closed : LimiterClosed CapFits where
  judge c live net e h := h.takeCap.of_caps (judgeBlock_caps c live net e).1 (judgeBlock_caps c live net e).2
  start _ _ h := h
  hand c n e h hn := by
    intro d hd
    obtain rfl : c = d := Option.some.inj hd
    obtain ⟨hle, heff, _⟩ := h c rfl
    exact ⟨hle, heff, capBetween_some.mpr (hn hle)⟩
  sample _ b live e h := h.of_caps (sampleLimiter_caps b live e).1 (sampleLimiter_caps b live e).2
  hold _ _ h := h
  settle _ _ h := h
  release _ _ h := h
  latch _ _ _ h := h
  accept _ c _ _ hle := by
    intro d hd
    obtain rfl : c = d := Option.some.inj hd
    exact ⟨hle, capBetween_some.mpr ⟨le_rfl, hle⟩, capBetween_none c⟩
  reset := nofun

/-- Settles O9: caps are handed over in range, and a cap that takes effect has waited in range. -/
theorem capLawIsKept : Obligations.CapLawIsKept :=
  limiter_kept capFits_closed

end Sys2Proof.Machine
end

section
/-! SUPPORT. The peer view: no operation changes which stations its entries are keyed by, and every step keeps
one entry for each station number but the part's own. -/

namespace Sys2Proof.Machine

/-! ## The keys of the view -/

/-- The station numbers that key the entries, in the order of the view (R78). -/
def peerKeys (u : Settlement) : List (Option Nat) :=
  u.peers.map (·.station)

/-- A change of entries that leaves each its key leaves the keys of the view. -/
theorem keys_map {g : PeerEntry → PeerEntry} (hg : ∀ p, (g p).station = p.station) (ps : List PeerEntry) :
    (ps.map g).map (·.station) = ps.map (·.station) := by
  rw [List.map_map]
  exact List.map_congr_left fun p _ => hg p

theorem openPeer_station (n : Nat) (p : PeerEntry) : (openPeer n p).station = p.station := by
  obtain ⟨_, _, hframe⟩ := openPeer_frame n p
  rw [hframe]

theorem settlePeer_station (p : PeerEntry) : (settlePeer p).station = p.station := by
  unfold settlePeer
  dsimp only
  split <;> rfl

theorem fillClosing_station (k : ClosingSlot) (p : PeerEntry) : (fillClosing k p).station = p.station := by
  unfold fillClosing
  split <;> rfl

theorem keys_updatePeer (n : Nat) {g : PeerEntry → PeerEntry} (hg : ∀ p, (g p).station = p.station)
    (ps : List PeerEntry) : (updatePeer n g ps).map (·.station) = ps.map (·.station) := by
  refine keys_map (fun p => ?_) ps
  split
  · exact hg p
  · rfl

/-! ## The unit's operations -/

@[simp] theorem peerKeys_openWindow (f : Figures) (u : Settlement) : peerKeys (openWindow f u) = peerKeys u :=
  keys_map (openPeer_station f.length) u.peers

@[simp] theorem peerKeys_settleUnit (own : Int) (u : Settlement) : peerKeys (settleUnit own u) = peerKeys u :=
  keys_map settlePeer_station u.peers

@[simp] theorem peerKeys_emptyEarly (u : Settlement) : peerKeys (emptyEarly u) = peerKeys u :=
  keys_map (g := fun p => { p with early := none }) (fun _ => rfl) u.peers

@[simp] theorem peerKeys_clearUnit (u : Settlement) : peerKeys (clearUnit u) = peerKeys u :=
  keys_map (g := fun p => clearedPeer p.station) (fun _ => rfl) u.peers

@[simp] theorem peerKeys_applyClass (n : Nat) (net : Int) (d : Nat) (k : ReportClass) (u : Settlement) :
    peerKeys (applyClass n net d k u) = peerKeys u := by
  cases k with
  | aligned o => exact keys_updatePeer n (fillClosing_station ⟨net, o⟩) u.peers
  | early e => exact keys_updatePeer n (g := fun p => { p with early := some ⟨net, e, d⟩ }) (fun _ => rfl) u.peers
  | late => rfl
  | misaligned => rfl

@[simp] theorem peerKeys_receiveFrame (c : Setup) (it : IntervalTimer) (ch : Channel) (cap : Option Capture)
    (f : GroupFrame) (u : Settlement) : peerKeys (receiveFrame c it ch cap f u) = peerKeys u := by
  have htouch : (updatePeer f.station (touchPeer ch f.id) u.peers).map (·.station) = peerKeys u :=
    keys_updatePeer f.station (g := touchPeer ch f.id) (fun _ => rfl) u.peers
  unfold receiveFrame
  dsimp only
  split
  · exact htouch
  · rw [peerKeys_applyClass]
    exact htouch

/-! ## The operations that several blocks take together -/

@[simp] theorem peerKeys_closeWindow (c : Setup) (s : State) :
    peerKeys (closeWindow c s).su = peerKeys s.su := by
  unfold closeWindow
  split
  · simp [settleWindow]
  · rfl

@[simp] theorem peerKeys_settleOpenWindow (c : Setup) (s : State) :
    peerKeys (settleOpenWindow c s).su = peerKeys s.su := by
  unfold settleOpenWindow
  split
  · exact peerKeys_closeWindow c s
  · rfl

@[simp] theorem peerKeys_earlyClose (c : Setup) (k : EarlyCause) (s : State) :
    peerKeys (earlyClose c k s).su = peerKeys s.su := by
  have hsolo : ∀ op net t, peerKeys (soloEffects c op net t).su = peerKeys t.su := by
    intro op net t
    unfold soloEffects
    split <;> rfl
  simp [earlyClose, hsolo]

@[simp] theorem peerKeys_countBoundary (c : Setup) (s : State) :
    peerKeys (countBoundary c s).su = peerKeys s.su := by
  simp [countBoundary]

@[simp] theorem peerKeys_takeDue (s : State) : peerKeys (takeDue s).su = peerKeys s.su := by
  unfold takeDue takeDueBoundary
  (repeat' split) <;> simp

@[simp] theorem peerKeys_takeDueWindow (c : Setup) (s : State) :
    peerKeys (takeDueWindow c s).su = peerKeys s.su := by
  unfold takeDueWindow
  split
  · exact peerKeys_closeWindow c s
  · rfl

@[simp] theorem peerKeys_takeAllDue (c : Setup) (s : State) :
    peerKeys (takeAllDue c s).su = peerKeys s.su := by
  simp [takeAllDue]

@[simp] theorem peerKeys_missingSet (c : Setup) (s : State) :
    peerKeys (missingSet c s).su = peerKeys s.su := by
  simp [missingSet]

@[simp] theorem peerKeys_missingSets (c : Setup) (k : Nat) (s : State) :
    peerKeys (missingSets c k s).su = peerKeys s.su := by
  induction k generalizing s with
  | zero => rfl
  | succ k ih => rw [missingSets, ih, peerKeys_missingSet]

@[simp] theorem peerKeys_takeFrame (c : Setup) (bytes : List Byte) (s : State) :
    peerKeys (takeFrame c bytes s).su = peerKeys s.su := by
  unfold takeFrame
  dsimp only
  (repeat' split) <;> simp [receivedSet]

@[simp] theorem peerKeys_passOn (c : Setup) (ch : Channel) (f : GroupFrame) (s : State) :
    peerKeys (passOn c ch f s).su = peerKeys s.su := by
  unfold passOn offerTiming
  (repeat' split) <;> simp [adopt]

@[simp] theorem peerKeys_judgeFrame (c : Setup) (ch : Channel) (bytes : List Byte) (s : State) :
    peerKeys (judgeFrame c ch bytes s).su = peerKeys s.su := by
  unfold judgeFrame
  split <;> simp [acceptFrame]

@[simp] theorem peerKeys_presetPosition (c : Setup) (id : IntervalId) (e : Nat) (s : State) :
    peerKeys (presetPosition c id e s).su = peerKeys s.su := by
  unfold presetPosition
  dsimp only
  split <;> simp

@[simp] theorem peerKeys_resyncFromRun (c : Setup) (s : State) :
    peerKeys (resyncFromRun c s).su = peerKeys s.su := by
  simp [resyncFromRun]

/-! ## The law -/

/-- Under a configuration the law reads the keys alone (R78). -/
theorem PeerLaw.of_keys {s t : State} {c : Setup} (h : PeerLaw s) (hc : s.config = some c)
    (ht : t.config = some c) (hk : peerKeys t.su = peerKeys s.su) : PeerLaw t := by
  refine ⟨fun d hd => ?_, fun hn => by simp [ht] at hn⟩
  obtain rfl : c = d := Option.some.inj (ht.symm.trans hd)
  exact hk.trans (h.1 c hc)

/-- The law reads the configuration and the view alone. -/
theorem PeerLaw.of_eq {s t : State} (h : PeerLaw s) (hc : t.config = s.config) (hu : t.su = s.su) :
    PeerLaw t := by
  unfold PeerLaw
  rw [hc, hu]
  exact h

theorem peerLaw_takeDue {s : State} (h : PeerLaw s) : PeerLaw (takeDue s) := by
  cases hc : s.config with
  | none => rwa [takeDue, hc]
  | some c => exact h.of_keys hc (by simpa using hc) (peerKeys_takeDue s)

/-- HOLD entry clears every entry and keeps its key; an unkeyed cleared entry stays as it is (R81, R104). -/
theorem peerLaw_enterHold (w : Bool) {s : State} (h : PeerLaw s) : PeerLaw (enterHold w s) := by
  cases hc : s.config with
  | none =>
    refine ⟨fun c hd => by simp [hc] at hd, fun _ => ?_⟩
    have hsu : (enterHold w s).su.peers = clearPeers s.su.peers := by simp [enterHold, holdClose, hc, clearUnit]
    rw [hsu, h.2 hc, clearPeers, List.map_replicate]
    rfl
  | some c =>
    refine h.of_keys hc (by simpa using hc) ?_
    simp only [enterHold, holdClose, hc, peerKeys_clearUnit]
    split <;> simp

theorem peerLaw_holdIfWarned {s : State} (h : PeerLaw s) : PeerLaw (holdIfWarned s) := by
  unfold holdIfWarned
  split
  · exact peerLaw_enterHold true h
  · exact h

/-- At acceptance the view is keyed by the fifteen other stations (R78, R147). -/
theorem peerLaw_configAccepted (b : List Byte) (s : State) : PeerLaw (configAccepted b s) := by
  have hcfg : (configAccepted b s).config = some (configSetup b) := by simp [configAccepted, acceptConfig]
  have hsu : (configAccepted b s).su.peers = keyedPeers (configSetup b).station := by
    simp [configAccepted, acceptConfig]
  refine ⟨fun c hc => ?_, fun hn => by simp [hcfg] at hn⟩
  obtain rfl : configSetup b = c := Option.some.inj (hcfg.symm.trans hc)
  rw [hsu, keyedPeers, List.map_map]
  rfl

/-- After either reset the fifteen entries stand cleared, without a key (R104, log 11). -/
theorem peerLaw_resetPhase (r : ResetPhase) {s : State} (hc : s.config = none)
    (hu : s.su = Settlement.reset) : PeerLaw (resetPhase r s) := by
  refine ⟨fun c hd => by simp [hc] at hd, fun _ => ?_⟩
  rw [resetPhase_su, hu]
  rfl

/-! ## Every step -/

theorem peerLaw_after (i : Instr) {s : State} (h : PeerLaw s) : PeerLaw (after i s) := by
  have hd : PeerLaw (takeDue s) := peerLaw_takeDue h
  have hserved : ∀ f, PeerLaw (f (takeDue s)) → PeerLaw (served f (takeDue s)) := fun f => served_cases hd
  have hkeys : ∀ {u t : State} {c : Setup}, PeerLaw u → u.config = some c → t.config = u.config →
      peerKeys t.su = peerKeys u.su → PeerLaw t :=
    fun hu hc ht hk => hu.of_keys hc (ht.trans hc) hk
  cases i <;> simp only [after]
  all_goals first
    | (refine hd.of_eq ?_ ?_ <;> simp; done)
    | (refine h.of_eq ?_ ?_ <;> simp; done)
    | skip
  case sampleSetFrame =>
    unfold sampleArrives
    (repeat' split)
    · exact hd
    · exact hd
    · exact hkeys hd ‹_› (by simp) (by simp)
  case watchdogExpiry =>
    unfold watchdogExpires
    (repeat' split)
    · exact hd
    · exact hkeys hd ‹_› (by simp) (by simp)
    · exact hd
  case countCompleteBoundary =>
    (repeat' split)
    · exact h
    · exact hkeys h ‹_› (by simp) (by simp)
    · exact h
  case unalignedBoundary =>
    (repeat' split)
    · exact h
    · exact hkeys h ‹_› (by simp) (by simp)
    · exact h
  case windowClose =>
    split
    · exact h
    · exact hkeys h ‹_› (by simp) (by simp)
  case completeFrame ch bytes =>
    unfold frameCompletes
    (repeat' split)
    · exact hd
    · exact hd.of_eq (by simp) (by simp)
    · exact hkeys hd ‹_› (by simp) (by simp)
    · exact hd
    · exact hd
  case holdEntry =>
    refine unlessHeld_cases hd ?_
    unfold pfwActive
    split
    · exact hd
    · exact peerLaw_enterHold _ hd
  case pfwInactive => split <;> exact h
  case releaseTimer =>
    split
    · exact peerLaw_holdIfWarned (h.of_eq (by simp) (by simp))
    · exact h
  case powerOnReset r => exact peerLaw_resetPhase r rfl rfl
  case resetn r => exact peerLaw_resetPhase r (s := retainedPart (takeDue s)) rfl rfl
  case loadConfig block =>
    split
    · exact h
    · refine hserved _ ?_
      unfold loadConfigActs
      dsimp only
      (repeat' split)
      · exact hd
      · exact peerLaw_holdIfWarned (peerLaw_configAccepted _ _)
      · exact hd
  case setDayPosition =>
    refine hserved _ ?_
    unfold setDayPositionActs
    dsimp only
    (repeat' split)
    · exact hd
    · exact hd
    · exact hd
    · exact hkeys hd ‹_› (by simp) (by simp)
  case resync =>
    refine hserved _ ?_
    unfold resyncActs
    (repeat' split)
    · exact hd
    · exact hkeys hd ‹_› (by simp) (by simp)
    · exact hd
  case discardedTransaction csn => cases csn <;> exact h.of_eq (by simp) (by simp)
  case pfwActiveInHold => split <;> exact h

/-- Settles O12. -/
theorem peerViewKeysAreKept : Obligations.PeerViewKeysAreKept :=
  kept_of_after (fun _ _ h => h) fun i _ h => peerLaw_after i h

end Sys2Proof.Machine
end

section
/-! SUPPORT. Settlement: the own matched share, what a settlement gives, and the flags of a record. -/

namespace Sys2Proof.Machine

/-! ## The flags of a record -/

/-- A flag stands at its own bit and at no other (R176). -/
theorem flagBit_getLsbD {n : Nat} (hn : n < 16) (b : Bool) (i : Nat) :
    (flagBit n b).getLsbD i = (b && decide (i = n)) := by
  cases b with
  | false => simp [flagBit]
  | true =>
    simp only [flagBit, if_true, BitVec.getLsbD_shiftLeft, BitVec.getLsbD_one, Bool.true_and]
    by_cases h : i = n
    · subst h; simp [hn]
    · by_cases hlt : i < n
      · simp [h, hlt]
      · have : ¬ i - n = 0 := by omega
        simp [h, this]

/-- Settles O37: each flag is read at its bit, where every other contributes nothing. -/
theorem recordFlagsStandAtTheirBits : Obligations.RecordFlagsStandAtTheirBits := by
  intro f k w
  simp only [w, recordFlags, BitVec.getLsbD_or, Nat.reduceLT, flagBit_getLsbD]
  simp

/-! ## The sums of R92 -/

theorem importSum_cons (n : Int) (ns : List Int) : importSum (n :: ns) = n.toNat + importSum ns := by
  simp [importSum]

theorem exportSum_cons (n : Int) (ns : List Int) : exportSum (n :: ns) = (-n).toNat + exportSum ns := by
  simp [exportSum]

/-! ## The own matched share -/

/-- A part `a` of one side's sum `b` gets at most `a` of what is matched, and at most all of it. -/
theorem share_le {a b m : Nat} (ha : a ≤ b) (hm : m ≤ b) : a * m / b ≤ a ∧ a * m / b ≤ m :=
  ⟨Nat.div_le_of_le_mul (by rw [Nat.mul_comm b]; exact Nat.mul_le_mul_left a hm),
    Nat.div_le_of_le_mul (Nat.mul_le_mul_right m ha)⟩

/-- The share exceeds neither the own net nor the match total, where the own net is part of its side's sum. -/
theorem matchedShare_le {own : Int} {nets : List Int} {m x : Nat} (hm : own.toNat ≤ m) (hx : (-own).toNat ≤ x) :
    matchedShare own nets.length m x ≤ own.natAbs ∧ matchedShare own nets.length m x ≤ min m x := by
  rw [matchedShare_eq]
  (repeat' split)
  · exact ⟨Nat.zero_le _, Nat.zero_le _⟩
  · obtain ⟨hown, htotal⟩ := share_le hm (Nat.min_le_left m x)
    exact ⟨by omega, htotal⟩
  · obtain ⟨hown, htotal⟩ := share_le hx (Nat.min_le_right m x)
    exact ⟨by omega, htotal⟩

/-- Settles O33: the own net is part of its own side's sum, which bounds the share twice over. -/
theorem ownMatchedShare : Obligations.OwnMatchedShare := by
  refine ⟨?_, by decide⟩
  intro own nets m x share
  have hm : m = own.toNat + importSum nets := importSum_cons own nets
  have hx : x = (-own).toNat + exportSum nets := exportSum_cons own nets
  have hshare : share = _ := matchedShare_eq own nets m x
  obtain ⟨hown, htotal⟩ := matchedShare_le (own := own) (nets := nets) (m := m) (x := x) (by omega) (by omega)
  refine ⟨fun hn h => ?_, fun hn h => ?_, fun h => ?_, hown, htotal, ?_, fun c f u o b hnet hpeers => ?_⟩
  · rw [hshare, if_neg (by simp [hn, h.ne']), if_pos h]
  · rw [hshare, if_neg (by simp [hn, h.ne]), if_neg (Int.not_lt.mpr h.le)]
  · rw [hshare, if_pos h.symm]
  · rintro rfl
    have hside : m = 0 ∨ x = 0 := by
      simp only [importSum, exportSum, List.map_nil, List.sum_nil] at hm hx
      omega
    rcases hside with h | h <;> simp [h]
  · subst hnet hpeers
    rfl

/-! ## The trim -/

/-- The trim is the halved mean of the offsets, toward 0 and limited to 32 either way (R95). -/
theorem trimOf_of_heard {offsets : List Int} (h : offsets ≠ []) :
    trimOf offsets = max (-32) (min 32 (offsets.sum.tdiv (2 * offsets.length))) := if_neg h

/-- A quotient toward 0 has the quotient of the magnitudes, and the sign of the dividend. -/
theorem tdiv_natAbs_sign (a : Int) (n : Nat) :
    (a.tdiv n).natAbs = a.natAbs / n ∧ (0 ≤ a → 0 ≤ a.tdiv n) ∧ (a ≤ 0 → a.tdiv n ≤ 0) :=
  ⟨Int.natAbs_tdiv a n, fun h => Int.tdiv_nonneg h (Int.natCast_nonneg n), fun h => by
    have := Int.tdiv_nonneg (Int.neg_nonneg_of_nonpos h) (Int.natCast_nonneg n)
    rw [Int.neg_tdiv] at this
    omega⟩

/-! ## The cap -/

/-- The cap of a settlement with a peer heard (R97): the base cap plus the bonus over the others' imports,
at most the ceiling cap. -/
theorem settledCap_of_heard (c : Setup) (own : Int) {nets : List Int} (h : nets ≠ []) :
    settledCap c own nets
      = min c.ceilingCap
          (c.baseCap
            + importSum nets * c.quantum
              / (fullBlocks c.lengthCode * max 1 (exporterCount (own :: nets)))) := by
  rw [settledCap, if_neg h, headroomBonus, importSum_cons, Nat.add_sub_cancel_left, Nat.min_comm]

/-! ## The peers -/

/-- A counted peer that was not heard steps its missed count (R80). -/
theorem settlePeer_missed {p : PeerEntry} (hc : p.counted = true) (hn : p.closing = none) :
    settlePeer p =
      { p with
        counted := false
        missed := min 4 (p.missed + 1)
        state := if 4 ≤ p.missed + 1 then .silent else p.state } := by
  simp [settlePeer, hc, hn]

/-- Any other peer only leaves its closing slot empty and Counted clear (R91). -/
theorem settlePeer_other {p : PeerEntry} (h : p.counted = false ∨ p.closing ≠ none) :
    settlePeer p = { p with counted := false, closing := none } := by
  have hb : (p.counted && p.closing.isNone) = false := by
    rw [Bool.and_eq_false_iff, Option.isNone_eq_false_iff, Option.isSome_iff_ne_none]
    exact h
  simp [settlePeer, hb]

/-- Settles O34. -/
theorem whatASettlementGives : Obligations.WhatASettlementGives := by
  refine ⟨⟨fun offsets => ?_, fun c own nets hle => ?_⟩,
    fun p => ⟨settlePeer_missed, settlePeer_other⟩⟩
  · obtain ⟨hlo, hhi⟩ := trimOf_range offsets
    refine ⟨hlo, hhi, fun h => if_pos h, fun h => ?_⟩
    obtain ⟨habs, hpos, hneg⟩ := tdiv_natAbs_sign offsets.sum (2 * offsets.length)
    rw [trimOf_of_heard h]
    push_cast at habs hpos hneg
    omega
  · obtain ⟨hlo, hhi⟩ := settledCap_between c own nets hle
    exact ⟨hlo, hhi, fun h => if_pos h, settledCap_of_heard c own⟩

end Sys2Proof.Machine
end

section
/-! SUPPORT. An accepted frame in the Settlement Unit: the class of a report by the tests of R82, what each
class does to the sender's entry, and a report beside the boundary that ends its interval. -/

namespace Sys2Proof.Machine

/-! ## The class of a report -/

section Classes

variable {c : Setup} {it : IntervalTimer} {closing : Option Figures} {f : GroupFrame} {delay : Nat}
  {cap : Option Capture}

/-- A length code of another kind is MISALIGNED (R82). -/
theorem classifyReport_otherLength (h : f.lengthCode ≠ c.lengthCode) :
    classifyReport c it closing f delay cap = .misaligned := if_pos h

/-- A report of the interval whose window is open is judged by its offset (R82, R84). -/
theorem classifyReport_open (hlen : f.lengthCode = c.lengthCode)
    (hid : f.id = predId (perDay c.lengthCode) it.id)
    (hw : it.window = some (predId (perDay c.lengthCode) it.id)) :
    classifyReport c it closing f delay cap = alignedClass it.id f.id closing delay cap := by
  simp [classifyReport, hlen, hid, hw]

/-- A report of the interval in progress is EARLY where its capture is of that interval (R82, R85). -/
theorem classifyReport_current {k : Capture} (hlen : f.lengthCode = c.lengthCode)
    (hnot : ¬ (f.id = predId (perDay c.lengthCode) it.id
      ∧ it.window = some (predId (perDay c.lengthCode) it.id))) (hid : f.id = it.id) :
    classifyReport c it closing f delay (some k) =
      if k.id = it.id then .early k.elapsed else .misaligned := by
  simp only [classifyReport, hlen, ne_eq, not_true_eq_false, if_false, if_neg hnot, if_pos hid]

theorem classifyReport_current_uncaptured (hlen : f.lengthCode = c.lengthCode)
    (hnot : ¬ (f.id = predId (perDay c.lengthCode) it.id
      ∧ it.window = some (predId (perDay c.lengthCode) it.id))) (hid : f.id = it.id) :
    classifyReport c it closing f delay none = .misaligned := by
  simp only [classifyReport, hlen, ne_eq, not_true_eq_false, if_false, if_neg hnot, if_pos hid]

/-- A report of neither is LATE for the last two intervals, and MISALIGNED beyond (R82, R86). -/
theorem classifyReport_past (hlen : f.lengthCode = c.lengthCode)
    (hnot : ¬ (f.id = predId (perDay c.lengthCode) it.id
      ∧ it.window = some (predId (perDay c.lengthCode) it.id))) (hid : f.id ≠ it.id) :
    classifyReport c it closing f delay cap =
      if f.id = predId (perDay c.lengthCode) it.id
          ∨ f.id = predId (perDay c.lengthCode) (predId (perDay c.lengthCode) it.id) then .late
      else .misaligned := by
  simp only [classifyReport, hlen, ne_eq, not_true_eq_false, if_false, if_neg hnot, if_neg hid]

/-- The offset against the receiver's position decides between ALIGNED and MISALIGNED (R83, R84). -/
theorem alignedClass_of_position {cur reported : IntervalId} {g : Figures} {e : Int}
    (h : receiverPosition cur reported g.length cap = some e) :
    alignedClass cur reported (some g) delay cap =
      if (e - delay).natAbs ≤ 4096 then .aligned (e - delay) else .misaligned := by
  simp [alignedClass, h, plausible]

/-- Without a capture of either interval there is no position (R83). -/
theorem alignedClass_of_no_position {cur reported : IntervalId} {g : Figures}
    (h : receiverPosition cur reported g.length cap = none) :
    alignedClass cur reported (some g) delay cap = .misaligned := by
  simp [alignedClass, h]

/-- The receiver's position by the interval of the capture (R83). -/
theorem receiverPosition_some (cur reported : IntervalId) (length : Nat) (k : Capture) :
    receiverPosition cur reported length (some k) =
      if k.id = cur then some (k.elapsed : Int)
      else if k.id = reported then some ((k.elapsed : Int) - length) else none := rfl

end Classes

/-! ## What a frame does to the unit -/

/-- A change of the sender's entry after it has been heard (R79). -/
theorem updatePeer_touched (station : Nat) (ch : Channel) (id : IntervalId) (g : PeerEntry → PeerEntry)
    (ps : List PeerEntry) :
    updatePeer station g (updatePeer station (touchPeer ch id) ps)
      = updatePeer station (fun p => g (touchPeer ch id p)) ps := by
  simp only [updatePeer, List.map_map]
  refine List.map_congr_left fun p _ => ?_
  by_cases hp : p.station = some station
  · have ht : (touchPeer ch id p).station = some station := hp
    simp [hp, ht]
  · simp [hp]

/-- An entry whose station is heard and whose early slot is filled (R79, R85). -/
def reportEarly (ch : Channel) (id : IntervalId) (e : EarlySlot) (p : PeerEntry) : PeerEntry :=
  { touchPeer ch id p with early := some e }

/-- A closing slot that is empty is filled (R84). -/
theorem fillClosing_eq (k : ClosingSlot) :
    fillClosing k = fun p => if p.closing = none then { p with closing := some k } else p := by
  funext p
  unfold fillClosing
  split <;> rename_i h <;> simp [h]

section Frames

variable {c : Setup} {it : IntervalTimer} {ch : Channel} {cap : Option Capture} {f : GroupFrame}
  {u : Settlement} {net : Int} {delay : Nat}

/-- A REPORT makes its sender heard and then acts by its class (R79, R82). -/
theorem receiveFrame_report (hb : f.body = .report net delay) :
    receiveFrame c it ch cap f u =
      applyClass f.station net delay (classifyReport c it u.closing f delay cap)
        { u with peers := updatePeer f.station (touchPeer ch f.id) u.peers } := by
  simp only [receiveFrame, hb]

variable (hb : f.body = .report net delay)

include hb

/-- An ALIGNED report fills its sender's closing slot (R84). -/
theorem receiveFrame_aligned {o : Int} (h : classifyReport c it u.closing f delay cap = .aligned o) :
    receiveFrame c it ch cap f u =
      { u with
        peers := updatePeer f.station (fun p => fillClosing ⟨net, o⟩ (touchPeer ch f.id p)) u.peers } := by
  rw [receiveFrame_report hb, h, applyClass, updatePeer_touched]

/-- An EARLY report fills its sender's early slot (R85). -/
theorem receiveFrame_early {e : Nat} (h : classifyReport c it u.closing f delay cap = .early e) :
    receiveFrame c it ch cap f u =
      { u with peers := updatePeer f.station (reportEarly ch f.id ⟨net, e, delay⟩) u.peers } := by
  rw [receiveFrame_report hb, h, applyClass, updatePeer_touched]
  rfl

/-- A MISALIGNED report raises the flag (R84). -/
theorem receiveFrame_misaligned (h : classifyReport c it u.closing f delay cap = .misaligned) :
    receiveFrame c it ch cap f u =
      { u with peers := updatePeer f.station (touchPeer ch f.id) u.peers, misaligned := true } := by
  rw [receiveFrame_report hb, h, applyClass]

end Frames

/-- Settles O35: each clause is one branch of R82's tests, with what its class does. -/
theorem frameReachesTheSettlementUnit : Obligations.FrameReachesTheSettlementUnit := by
  intro c it ch cap f u heard prev prev2 result
  refine ⟨fun st blocks hb => receiveFrame_late fun net delay h => by simp [hb] at h, fun net delay hb => ?_⟩
  intro misaligned
  have hmis : classifyReport c it u.closing f delay cap = .misaligned → result = misaligned :=
    receiveFrame_misaligned hb
  have hlate : classifyReport c it u.closing f delay cap = .late → result = { u with peers := heard id } := by
    refine fun h => receiveFrame_late fun n d hbody => ?_
    obtain ⟨rfl, rfl⟩ : net = n ∧ delay = d := by simpa [hb] using hbody
    exact h
  refine ⟨fun hlen => hmis (classifyReport_otherLength hlen),
    fun hlen hid hw g hg => ⟨fun k o hcap hcur hrep hone => ?_, fun hcap => hmis ?_⟩,
    fun hlen hnot hid => ⟨fun k hcap hk => ?_, fun hcap => hmis ?_⟩, fun hlen hid hw hpast => hlate ?_,
    fun hlen hid hprev hprev2 => hlate ?_, fun hlen hid hprev hprev2 => hmis ?_⟩
  · have hpos : receiverPosition it.id f.id g.length cap = some (o + delay) := by
      subst hcap
      rw [receiverPosition_some]
      by_cases hkc : k.id = it.id
      · rw [if_pos hkc, hcur hkc, Int.sub_add_cancel]
      · rw [if_neg hkc, if_pos (hone.resolve_left hkc), hrep hkc (hone.resolve_left hkc), Int.sub_add_cancel]
    have hcl := classifyReport_open (closing := u.closing) (delay := delay) (cap := cap) hlen hid hw
    rw [hg, alignedClass_of_position hpos, Int.add_sub_cancel, ← hg] at hcl
    split
    · rename_i ho
      rw [if_pos ho] at hcl
      exact (receiveFrame_aligned hb hcl).trans (by rw [fillClosing_eq]; rfl)
    · rename_i ho
      rw [if_neg ho] at hcl
      exact hmis hcl
  · rw [classifyReport_open hlen hid hw, hg]
    refine alignedClass_of_no_position ?_
    rcases hcap with rfl | ⟨k, rfl, hkc, hkr⟩
    · rfl
    · rw [receiverPosition_some, if_neg hkc, if_neg hkr]
  · refine receiveFrame_early hb ?_
    rw [hcap, classifyReport_current hlen hnot hid, if_pos hk]
  · rcases hcap with rfl | ⟨k, rfl, hk⟩
    · exact classifyReport_current_uncaptured hlen hnot hid
    · rw [classifyReport_current hlen hnot hid, if_neg hk]
  · rw [classifyReport_past hlen (fun h => hw h.2) hid, if_pos hpast]
  · rw [classifyReport_past hlen (fun h => hprev h.1) hid, if_pos (.inr hprev2)]
  · rw [classifyReport_past hlen (fun h => hprev h.1) hid, if_neg (by tauto)]

/-! ## One station's entry -/

/-- In a view that keys no two entries alike, an entry is found by its station (R78). -/
theorem peerOf_of_mem {ps : List PeerEntry} {p : PeerEntry} {n : Nat} (hp : p ∈ ps)
    (hn : p.station = some n) (hkeys : (ps.map (·.station)).Nodup) : peerOf ps n = some p := by
  have hfound : (peerOf ps n).isSome := List.find?_isSome.mpr ⟨p, hp, by simp [hn]⟩
  obtain ⟨q, hq⟩ := Option.isSome_iff_exists.mp hfound
  have hqn : q.station = some n := by simpa using List.find?_some hq
  rw [hq, List.inj_on_of_nodup_map hkeys (List.mem_of_find?_eq_some hq) hp (hqn.trans hn.symm)]

/-- A change of entries that keeps their keys is seen in the entry of a station (R78). -/
theorem peerOf_map {g : PeerEntry → PeerEntry} (hg : ∀ p, (g p).station = p.station) (ps : List PeerEntry)
    (n : Nat) : peerOf (ps.map g) n = (peerOf ps n).map g := by
  rw [peerOf, List.find?_map, peerOf]
  simp only [Function.comp_def, hg]

/-- The entry of the station whose entry is changed (R78). -/
theorem peerOf_updatePeer {ps : List PeerEntry} {p : PeerEntry} {n : Nat} {g : PeerEntry → PeerEntry}
    (h : peerOf ps n = some p) (hg : ∀ q, (g q).station = q.station) :
    peerOf (updatePeer n g ps) n = some (g p) := by
  have hp : p.station = some n := by simpa using List.find?_some h
  rw [updatePeer, peerOf_map (fun q => by split <;> simp [hg]), h, Option.map_some, if_pos hp]

/-- A test that no entry passes but the one station's once changed. -/
theorem any_updatePeer {ps : List PeerEntry} {p : PeerEntry} {n : Nat} {g : PeerEntry → PeerEntry}
    {q : PeerEntry → Bool} {b : Bool} (hp : p ∈ ps) (hn : p.station = some n)
    (hother : ∀ r ∈ ps, q r = false) (hg : ∀ r, q (g r) = b) : (updatePeer n g ps).any q = b := by
  rw [updatePeer, List.any_map, Bool.eq_iff_iff, List.any_eq_true]
  constructor
  · rintro ⟨r, hr, h⟩
    dsimp only [Function.comp] at h
    split at h
    · rwa [hg] at h
    · simp [hother r hr] at h
  · intro h
    exact ⟨p, hp, by simp [hn, hg, h]⟩

/-! ## A report beside the boundary that ends its interval -/

/-- A report of the interval in progress, captured in it, from a station whose slots are empty, beside the
boundary that ends the interval (R87). -/
structure ReportAtBoundary (c : Setup) (s : State) (k : Capture) (f : GroupFrame) (net : Int) (delay : Nat)
    (p : PeerEntry) : Prop where
  day : s.it.id.day < 65536
  iod : s.it.id.iod < perDay c.lengthCode
  body : f.body = .report net delay
  code : f.lengthCode = c.lengthCode
  id : f.id = s.it.id
  captured : k.id = s.it.id
  window : s.it.window = none
  mem : p ∈ s.su.peers
  station : p.station = some f.station
  closing : p.closing = none
  early : p.early = none
  keys : (s.su.peers.map (·.station)).Nodup
  unreported : ∀ q ∈ s.su.peers, q.early = none

/-- The offset of such a report: the captured count less the interval's length and the sender's delay (R83,
R87). -/
def boundaryOffset (s : State) (k : Capture) (delay : Nat) : Int :=
  (k.elapsed : Int) - s.it.elapsed - delay

/-- What a station's entry and the misaligned-heard flag are, the early slot empty. -/
def SlotBecomes (u : Settlement) (station : Nat) (slot : Option ClosingSlot) (misaligned : Bool) : Prop :=
  (peerOf u.peers station).map (·.closing) = some slot ∧ u.misaligned = misaligned
    ∧ (peerOf u.peers station).map (·.early) = some none

/-- What the report comes to, whichever is taken first (R84, R87). -/
def BoundaryOutcome (s : State) (k : Capture) (station : Nat) (net : Int) (delay : Nat) (u : Settlement) : Prop :=
  SlotBecomes u station
    (if plausible (boundaryOffset s k delay) then some ⟨net, boundaryOffset s k delay⟩ else none)
    (s.su.misaligned || !plausible (boundaryOffset s k delay))

/-- The settlement side of a count-complete boundary in RUN (R34, R88). -/
theorem countBoundary_opens (c : Setup) (s : State) :
    (countBoundary c s).su = openWindow (takeFigures false s) s.su
      ∧ (countBoundary c s).it.id = succId (perDay c.lengthCode) s.it.id
      ∧ (countBoundary c s).it.window = some s.it.id := by
  rw [countBoundary_eq]
  exact ⟨rfl, rfl, rfl⟩

/-- An entry without an early slot keeps its closing slot as a window opens (R87). -/
theorem openPeer_unreported {length : Nat} {p : PeerEntry} (h : p.early = none) :
    (openPeer length p).closing = p.closing ∧ earlyImplausible length p = false := by
  simp [openPeer, earlyImplausible, h]

/-- An entry with an early slot, as a window opens: its offset fills an empty closing slot or is MISALIGNED
(R87). -/
theorem openPeer_reported {length : Nat} {p : PeerEntry} {e : EarlySlot} (he : p.early = some e)
    (hc : p.closing = none) :
    (openPeer length p).closing
        = (if plausible (earlyOffset length e) then some ⟨e.net, earlyOffset length e⟩ else none)
      ∧ earlyImplausible length p = !plausible (earlyOffset length e) := by
  by_cases h : plausible (earlyOffset length e) = true <;> simp [openPeer, earlyImplausible, he, hc, h]

/-- A station's entry as a window opens, where its early slot is resolved to a closing slot or to the flag
(R87, R88). -/
theorem slotBecomes_openWindow {g : Figures} {u : Settlement} {n : Nat} {p : PeerEntry} {b : Bool}
    (hp : peerOf u.peers n = some p) (hb : u.peers.any (earlyImplausible g.length) = b) :
    SlotBecomes (openWindow g u) n (openPeer g.length p).closing (u.misaligned || b) := by
  have hopen : peerOf (openWindow g u).peers n = some (openPeer g.length p) := by
    rw [openWindow, peerOf_map (openPeer_station g.length), hp, Option.map_some]
  unfold SlotBecomes
  rw [hopen]
  exact ⟨rfl, congrArg (u.misaligned || ·) hb, congrArg some (openPeer_frame g.length p).2.1⟩

/-- Such an entry is there to be found. -/
theorem SlotBecomes.entry {u : Settlement} {n : Nat} {slot : Option ClosingSlot} {b : Bool}
    (h : SlotBecomes u n slot b) : ∃ p, peerOf u.peers n = some p ∧ p.closing = slot ∧ p.early = none := by
  obtain ⟨hslot, _, hearly⟩ := h
  obtain ⟨p, hp, hclosing⟩ := Option.map_eq_some_iff.mp hslot
  rw [hp, Option.map_some, Option.some.injEq] at hearly
  exact ⟨p, hp, hclosing, hearly⟩

/-- An ALIGNED report fills an empty closing slot (R84). -/
theorem SlotBecomes.filled {u : Settlement} {n : Nat} {b : Bool} (h : SlotBecomes u n none b) (ch : Channel)
    (id : IntervalId) (k : ClosingSlot) :
    SlotBecomes { u with peers := updatePeer n (fun p => fillClosing k (touchPeer ch id p)) u.peers } n
      (some k) b := by
  obtain ⟨p, hp, hclosing, hearly⟩ := h.entry
  have hg := peerOf_updatePeer (g := fun p => fillClosing k (touchPeer ch id p)) hp
    fun q => fillClosing_station k (touchPeer ch id q)
  have hfill : fillClosing k (touchPeer ch id p) = { touchPeer ch id p with closing := some k } := by
    simp [fillClosing_eq, touchPeer, hclosing]
  rw [hfill] at hg
  refine ⟨?_, h.2.1, ?_⟩ <;> dsimp only <;> rw [hg]
  · rfl
  · exact congrArg some hearly

/-- A MISALIGNED report leaves the slots as they are and raises the flag (R84). -/
theorem SlotBecomes.flagged {u : Settlement} {n : Nat} {slot : Option ClosingSlot} {b : Bool}
    (h : SlotBecomes u n slot b) (ch : Channel) (id : IntervalId) :
    SlotBecomes { u with peers := updatePeer n (touchPeer ch id) u.peers, misaligned := true } n slot true := by
  obtain ⟨p, hp, hclosing, hearly⟩ := h.entry
  have hg := peerOf_updatePeer (g := touchPeer ch id) hp fun _ => rfl
  refine ⟨?_, rfl, ?_⟩ <;> dsimp only <;> rw [hg]
  · exact congrArg some hclosing
  · exact congrArg some hearly

section Boundary

variable {c : Setup} {s : State} {k : Capture} {f : GroupFrame} {net : Int} {delay : Nat} {p : PeerEntry}

theorem ReportAtBoundary.found (h : ReportAtBoundary c s k f net delay p) :
    peerOf s.su.peers f.station = some p :=
  peerOf_of_mem h.mem h.station h.keys

/-- Taken before the boundary the report is EARLY, and its slot is resolved as the window opens (R85, R87). -/
theorem ReportAtBoundary.report_first (h : ReportAtBoundary c s k f net delay p) (ch : Channel) :
    BoundaryOutcome s k f.station net delay
      (countBoundary c { s with su := receiveFrame c s.it ch (some k) f s.su }).su := by
  have hclass : classifyReport c s.it s.su.closing f delay (some k) = .early k.elapsed := by
    rw [classifyReport_current h.code (by simp [h.window]) h.id, if_pos h.captured]
  have hpeer := peerOf_updatePeer (g := reportEarly ch f.id ⟨net, k.elapsed, delay⟩) h.found fun _ => rfl
  have hany : (updatePeer f.station (reportEarly ch f.id ⟨net, k.elapsed, delay⟩) s.su.peers).any
      (earlyImplausible s.it.elapsed) = !plausible (boundaryOffset s k delay) :=
    any_updatePeer h.mem h.station (fun q hq => (openPeer_unreported (h.unreported q hq)).2) fun _ => rfl
  have hslot := (openPeer_reported (length := s.it.elapsed)
    (p := reportEarly ch f.id ⟨net, k.elapsed, delay⟩ p) rfl h.closing).1
  rw [(countBoundary_opens c _).1, receiveFrame_early h.body hclass, BoundaryOutcome]
  have hopen := slotBecomes_openWindow (g := takeFigures false s)
    (u := { s.su with peers := updatePeer f.station (reportEarly ch f.id ⟨net, k.elapsed, delay⟩) s.su.peers })
    hpeer hany
  rwa [show (takeFigures false s).length = s.it.elapsed from rfl, hslot] at hopen

/-- Taken after it, the report is classed by the same offset: its capture is of the interval that has just
closed, whose length is known (R83, R84, R87). -/
theorem ReportAtBoundary.class_after (h : ReportAtBoundary c s k f net delay p) :
    classifyReport c (countBoundary c s).it (countBoundary c s).su.closing f delay (some k) =
      if plausible (boundaryOffset s k delay) then .aligned (boundaryOffset s k delay) else .misaligned := by
  obtain ⟨hsu, hnext, hopen⟩ := countBoundary_opens c s
  have hd := perDay_ge c.lengthCode
  obtain ⟨hprev, hne⟩ := predId_succId (by omega) h.day h.iod
  rw [classifyReport_open h.code (by rw [hnext, hprev, h.id]) (by rw [hopen, hnext, hprev]), hsu, hnext, h.id]
  have hpos : receiverPosition (succId (perDay c.lengthCode) s.it.id) s.it.id s.it.elapsed (some k)
      = some ((k.elapsed : Int) - s.it.elapsed) := by
    rw [receiverPosition_some, h.captured, if_neg hne, if_pos rfl]
  simp only [openWindow, takeFigures, alignedClass, hpos]
  rfl

/-- Taken after it, the report fills the closing slot as ALIGNED or is MISALIGNED (R84). -/
theorem ReportAtBoundary.boundary_first (h : ReportAtBoundary c s k f net delay p) (ch : Channel) :
    BoundaryOutcome s k f.station net delay
      (receiveFrame c (countBoundary c s).it ch (some k) f (countBoundary c s).su) := by
  have hclass := h.class_after
  have hnone : s.su.peers.any (earlyImplausible s.it.elapsed) = false :=
    List.any_eq_false.mpr fun q hq => by simp [(openPeer_unreported (h.unreported q hq)).2]
  have hopen := slotBecomes_openWindow (g := takeFigures false s) h.found hnone
  rw [(openPeer_unreported h.early).1, h.closing, Bool.or_false, ← (countBoundary_opens c s).1] at hopen
  unfold BoundaryOutcome
  by_cases hp : plausible (boundaryOffset s k delay) = true
  · rw [receiveFrame_aligned h.body (hclass.trans (if_pos hp)), if_pos hp, hp, Bool.not_true, Bool.or_false]
    exact hopen.filled ch f.id _
  · rw [receiveFrame_misaligned h.body (hclass.trans (if_neg hp)), if_neg hp, Bool.eq_false_of_not_eq_true hp,
      Bool.not_false, Bool.or_true]
    exact hopen.flagged ch f.id

end Boundary

/-- Settles O36: either way the slot is filled, or the flag raised, by the one offset and its limit. -/
theorem earlyAndAlignedGiveTheSameSlot : Obligations.EarlyAndAlignedGiveTheSameSlot := by
  intro c s ch k f net delay p _ hday hiod hb hlen hid hk hw hp hst hclosing hearly hkeys hnone reportFirst t
    boundaryFirst
  have h : ReportAtBoundary c s k f net delay p :=
    ⟨hday, hiod, hb, hlen, hid, hk, hw, hp, hst, hclosing, hearly, hkeys, hnone⟩
  obtain ⟨hslot, hflag, hempty⟩ := h.report_first ch
  obtain ⟨hslot', hflag', hempty'⟩ := h.boundary_first ch
  exact ⟨hslot.trans hslot'.symm, hflag.trans hflag'.symm, hempty.trans hempty'.symm⟩

end Sys2Proof.Machine
end

section
/-! SUPPORT. The readings of the readout port: their layouts field by field, and that they change nothing. -/

namespace Sys2Proof.Machine

/-! ## Bytes of a layout -/

theorem bytesAt_skip_signed {n off : Nat} (h : n ≤ off) (v : Int) (rest : List Byte) (len : Nat) :
    bytesAt (beInt n v ++ rest) off len = bytesAt rest (off - n) len := bytesAt_skip h _ _ _

theorem bytesAt_unsigned (n v : Nat) (rest : List Byte) : bytesAt (beBytes n v ++ rest) 0 n = beBytes n v := by
  rw [bytesAt_append_left (by simp)]
  simpa using bytesAt_zero_all (beBytes n v)

theorem bytesAt_last (n v : Nat) : bytesAt (beBytes n v) 0 n = beBytes n v := by
  simpa using bytesAt_unsigned n v []

/-! ## Zeros -/

theorem beNat_zeros (n : Nat) : beNat (zeros n) = 0 := by
  induction n with
  | zero => rfl
  | succ n ih =>
    rw [zeros, List.replicate_succ, beNat_cons, show List.replicate n 0 = zeros n from rfl, ih]
    simp

/-- Every field of zero bytes is 0 (R174). -/
theorem fieldAt_zeros (n off len : Nat) : fieldAt (zeros n) off len = 0 := by
  have hbytes : bytesAt (zeros n) off len = zeros (min len (n - off)) := by simp [bytesAt, zeros]
  rw [fieldAt, hbytes, beNat_zeros]

@[simp] theorem zeros_length (n : Nat) : (zeros n).length = n := List.length_replicate

@[simp] theorem padded_length (total : Nat) (bs : List Byte) : (padded total bs).length = total := by
  simp [padded]

@[simp] theorem starred_length (s : State) (bs : List Byte) : (starred s bs).length = bs.length := by
  unfold starred
  split
  · exact zeros_length _
  · rfl

@[simp] theorem optIdBytes_length (i : Option IntervalId) : (optIdBytes i).length = 4 := by
  cases i <;> simp [optIdBytes, idBytes]

/-- The fields of an optional ID, absent as 0 (R174). -/
theorem optIdBytes_fields (i : Option IntervalId) :
    (∀ id, i = some id →
        fieldAt (optIdBytes i) 0 2 = id.day % 65536 ∧ fieldAt (optIdBytes i) 2 2 = id.iod % 65536)
      ∧ (i = none → fieldAt (optIdBytes i) 0 4 = 0) := by
  refine ⟨?_, ?_⟩
  · rintro id rfl
    exact ⟨fieldAt_here 2 _ _, (fieldAt_skip (le_refl 2) _ _ 2).trans (fieldAt_last 2 _)⟩
  · rintro rfl
    exact fieldAt_last 4 0

/-! ## Places of one width -/

section Places

variable {α : Type} {f : α → List Byte} {w : Nat} (hf : ∀ x, (f x).length = w)

include hf

theorem flatMap_length (l : List α) : (l.flatMap f).length = w * l.length := by
  induction l with
  | nil => simp
  | cons x l ih =>
    rw [List.flatMap_cons, List.length_append, hf, ih, List.length_cons]
    ring

/-- The place of an element (R174). -/
theorem bytesAt_place {l : List α} {n : Nat} {x : α} (hx : l[n]? = some x) (rest : List Byte) {off len : Nat}
    (h : off + len ≤ w) : bytesAt (l.flatMap f ++ rest) (w * n + off) len = bytesAt (f x) off len := by
  induction l generalizing n with
  | nil => simp at hx
  | cons y l ih =>
    rw [List.flatMap_cons, List.append_assoc]
    cases n with
    | zero =>
      obtain rfl : y = x := by simpa using hx
      rw [Nat.mul_zero, Nat.zero_add, bytesAt_append_left (by rwa [hf])]
    | succ n =>
      rw [bytesAt_append_right (by rw [hf, Nat.mul_succ]; omega), hf,
        show w * (n + 1) + off - w = w * n + off by rw [Nat.mul_succ]; omega]
      exact ih (by simpa using hx)

theorem fieldAt_place {l : List α} {n : Nat} {x : α} (hx : l[n]? = some x) (rest : List Byte) {off len : Nat}
    (h : off + len ≤ w) : fieldAt (l.flatMap f ++ rest) (w * n + off) len = fieldAt (f x) off len :=
  congrArg beNat (bytesAt_place hf hx rest h)

omit hf in
theorem fieldAt_padded {total off len : Nat} (h : off + len ≤ total) (bs : List Byte) :
    fieldAt (padded total bs) off len = fieldAt (bs ++ zeros total) off len := by
  have hmin : min len (total - off) = len := by omega
  simp only [fieldAt, bytesAt, padded, List.drop_take, List.take_take, hmin]

/-- The place of an element of a list of so many places (R174). -/
theorem fieldAt_padded_place {l : List α} {n : Nat} {x : α} (hx : l[n]? = some x) {total off len : Nat}
    (h : off + len ≤ w) (ht : w * n + w ≤ total) :
    fieldAt (padded total (l.flatMap f)) (w * n + off) len = fieldAt (f x) off len := by
  rw [fieldAt_padded (by omega), fieldAt_place hf hx _ h]

/-- An unused place is 0 in every byte (R174). -/
theorem fieldAt_padded_unused {l : List α} {n : Nat} (hn : l[n]? = none) {total len : Nat}
    (ht : w * n + len ≤ total) : fieldAt (padded total (l.flatMap f)) (w * n) len = 0 := by
  have hle : w * l.length ≤ w * n := Nat.mul_le_mul_left w (List.getElem?_eq_none_iff.mp hn)
  rw [fieldAt_padded ht, fieldAt_append (by rwa [flatMap_length hf]), fieldAt_zeros]

end Places

/-! ## Code values -/

/-- Every code value and every byte of flags fits its byte (R178). -/
theorem codes_fit :
    (∀ o, opCode o % 256 = opCode o) ∧ (∀ p, portCode p % 256 = portCode p)
      ∧ (∀ c, chanCode c % 256 = chanCode c) ∧ (∀ a, accessCode a % 256 = accessCode a)
      ∧ (∀ o, outcomeCode o % 256 = outcomeCode o) ∧ (∀ p, pageCode p % 256 = pageCode p)
      ∧ (∀ p, peerCode p % 256 = peerCode p) ∧ (∀ k, kindCode k % 256 = kindCode k)
      ∧ (∀ r, rearmCode r % 256 = rearmCode r) ∧ (∀ b, bandCode b % 256 = bandCode b)
      ∧ (∀ c, lastChannelCode c % 256 = lastChannelCode c) ∧ (∀ b, flagCode b % 256 = flagCode b)
      ∧ (∀ a b, (statusCode a + 4 * statusCode b) % 256 = statusCode a + 4 * statusCode b) := by
  refine ⟨?_, ?_, ?_, ?_, ?_, ?_, ?_, ?_, ?_, ?_, ?_, ?_, ?_⟩
  case refine_11 => rintro (_ | _ | _) <;> rfl
  case refine_13 => rintro (_ | _ | _) (_ | _ | _) <;> rfl
  all_goals intro x; cases x <;> rfl

theorem flagCode_le (b : Bool) : flagCode b ≤ 1 := by cases b <;> decide

theorem twoFlags_fit (a b : Bool) : (flagCode a + 2 * flagCode b) % 256 = flagCode a + 2 * flagCode b := by
  have ha := flagCode_le a
  have hb := flagCode_le b
  omega

theorem fourFlags_fit (a b c d : Bool) :
    (flagCode a + 2 * flagCode b + 4 * flagCode c + 8 * flagCode d) % 256
      = flagCode a + 2 * flagCode b + 4 * flagCode c + 8 * flagCode d := by
  have ha := flagCode_le a
  have hb := flagCode_le b
  have hc := flagCode_le c
  have hd := flagCode_le d
  omega

/-- Every bit field fits the bytes it is given. -/
theorem masks_fit (w4 : BitVec 4) (w9 : BitVec 9) (w16 : BitVec 16) (k : Fin 4) :
    w4.toNat % 256 = w4.toNat ∧ w9.toNat % 65536 = w9.toNat ∧ w16.toNat % 65536 = w16.toNat
      ∧ k.val % 256 = k.val := by
  have h4 := w4.isLt
  have h9 := w9.isLt
  have h16 := w16.isLt
  have hk := k.isLt
  omega

end Sys2Proof.Machine
end

section
namespace Sys2Proof.Machine

/-! ## READ TOTALS, READ RECORD and READ PEER -/

theorem totalsBytes_length (s : State) : (totalsBytes s).length = 65 := by simp [totalsBytes, pairBytes]

theorem recordBytes_length (r : Record) : (recordBytes r).length = 40 := by simp [recordBytes, idBytes]

theorem peerBytes_length (p : PeerEntry) : (peerBytes p).length = 24 := by
  unfold peerBytes
  split <;> split <;> simp

/-- The layout of READ TOTALS (R165, R178). -/
theorem totalsBytes_fields (s : State) :
    (∀ n band, (n, band) ∈ [(0, Band.b0), (10, .b1), (20, .b2), (30, .b3), (40, .unbanded)] →
      fieldAt (totalsBytes s) n 5 = (totalsOf s.rb.totals band).imp % 2 ^ 40
        ∧ fieldAt (totalsBytes s) (n + 5) 5 = (totalsOf s.rb.totals band).exp % 2 ^ 40)
      ∧ fieldAt (totalsBytes s) 50 5 = s.ne.residueImport % 2 ^ 40
      ∧ fieldAt (totalsBytes s) 55 5 = s.ne.residueExport % 2 ^ 40
      ∧ fieldAt (totalsBytes s) 60 5 = s.supply.retainedQ.getD 0 % 2 ^ 40 := by
  simp only [totalsBytes, pairBytes, List.append_assoc, List.mem_cons, List.not_mem_nil, or_false, Prod.mk.injEq]
  refine ⟨?_, ?_⟩
  · rintro n band (⟨rfl, rfl⟩ | ⟨rfl, rfl⟩ | ⟨rfl, rfl⟩ | ⟨rfl, rfl⟩ | ⟨rfl, rfl⟩) <;>
      simp only [fieldAt_skip, fieldAt_here, Nat.reduceLeDiff, Nat.reduceAdd, Nat.reduceSub] <;>
      exact ⟨rfl, rfl⟩
  · simp only [fieldAt_skip, fieldAt_here, fieldAt_last, Nat.reduceLeDiff, Nat.reduceSub, Nat.reducePow, and_self]

/-- The layout of an interval record (R176). -/
theorem recordBytes_fields (r : Record) :
    fieldAt (recordBytes r) 0 2 = r.firstId.day % 65536 ∧ fieldAt (recordBytes r) 2 2 = r.firstId.iod % 65536
      ∧ fieldAt (recordBytes r) 4 2 = r.lastId.day % 65536 ∧ fieldAt (recordBytes r) 6 2 = r.lastId.iod % 65536
      ∧ fieldAt (recordBytes r) 8 1 = bandCode r.band ∧ fieldAt (recordBytes r) 9 2 = r.flags.toNat
      ∧ fieldAt (recordBytes r) 11 1 = r.mergeCount % 256 ∧ fieldAt (recordBytes r) 12 2 = r.heard.toNat
      ∧ fieldAt (recordBytes r) 14 1 = r.expected % 256
      ∧ (-128 ≤ r.trim → r.trim ≤ 127 → signedOf (bytesAt (recordBytes r) 15 1) = r.trim)
      ∧ fieldAt (recordBytes r) 16 4 = r.impQuanta % 2 ^ 32 ∧ fieldAt (recordBytes r) 20 4 = r.expQuanta % 2 ^ 32
      ∧ fieldAt (recordBytes r) 24 4 = r.share % 2 ^ 32
      ∧ fieldAt (recordBytes r) 28 5 = r.m % 2 ^ 40 ∧ fieldAt (recordBytes r) 33 5 = r.x % 2 ^ 40
      ∧ fieldAt (recordBytes r) 38 2 = 0 := by
  have hmask : ∀ w : BitVec 16, w.toNat % 65536 = w.toNat := fun w => (masks_fit 0 0 w 0).2.2.1
  simp only [recordBytes, idBytes, List.append_assoc, fieldAt, bytesAt_skip, bytesAt_skip_signed, bytesAt_unsigned,
    bytesAt_here, bytesAt_last, beNat_beBytes_mod, Nat.reduceLeDiff, Nat.reduceSub, Nat.reducePow, codes_fit, hmask,
    Nat.zero_mod, true_and, and_true]
  exact fun hlo hhi => signedOf_beInt (by omega) (by omega)

/-- The six bytes of the closing slot (R178). -/
def closingBytes : Option ClosingSlot → List Byte
  | some k => beInt 4 k.net ++ beInt 2 k.offset
  | none => zeros 6

/-- The ten bytes of the early slot (R178). -/
def earlyBytes : Option EarlySlot → List Byte
  | some k => beInt 4 k.net ++ beBytes 4 k.elapsed ++ beBytes 2 k.delay
  | none => zeros 10

/-- The entry of a peer by its parts (R178). -/
theorem peerBytes_eq (p : PeerEntry) :
    peerBytes p =
      beBytes 1 (peerCode p.state)
        ++ (beBytes 1 (flagCode p.lastId.isSome + 2 * flagCode p.counted + 4 * flagCode p.closing.isSome
              + 8 * flagCode p.early.isSome)
          ++ (optIdBytes p.lastId
            ++ (beBytes 1 (lastChannelCode p.lastChannel)
              ++ (beBytes 1 p.missed ++ (closingBytes p.closing ++ earlyBytes p.early))))) := by
  rcases hc : p.closing with _ | k <;> rcases he : p.early with _ | e <;>
    simp [peerBytes, closingBytes, earlyBytes, hc, he]

theorem closingBytes_length (k : Option ClosingSlot) : (closingBytes k).length = 6 := by
  cases k <;> simp [closingBytes]

/-- The fields before the slots of a peer's entry (R166, R178). -/
theorem peerBytes_head (p : PeerEntry) :
    fieldAt (peerBytes p) 0 1 = peerCode p.state
      ∧ fieldAt (peerBytes p) 1 1 = flagCode p.lastId.isSome + 2 * flagCode p.counted
          + 4 * flagCode p.closing.isSome + 8 * flagCode p.early.isSome
      ∧ (∀ id, p.lastId = some id →
          fieldAt (peerBytes p) 2 2 = id.day % 65536 ∧ fieldAt (peerBytes p) 4 2 = id.iod % 65536)
      ∧ (p.lastId = none → fieldAt (peerBytes p) 2 4 = 0)
      ∧ fieldAt (peerBytes p) 6 1 = lastChannelCode p.lastChannel
      ∧ fieldAt (peerBytes p) 7 1 = p.missed % 256 := by
  obtain ⟨hsome, hnone⟩ := optIdBytes_fields p.lastId
  have hid : ∀ rest off len, off + len ≤ 4 →
      fieldAt (optIdBytes p.lastId ++ rest) off len = fieldAt (optIdBytes p.lastId) off len :=
    fun rest off len h => fieldAt_append_left (by simpa using h)
  have hafter : ∀ rest off len, 4 ≤ off →
      fieldAt (optIdBytes p.lastId ++ rest) off len = fieldAt rest (off - 4) len :=
    fun rest off len h => by rw [fieldAt_append (by simpa using h), optIdBytes_length]
  simp only [peerBytes_eq, fieldAt_skip, fieldAt_here, Nat.reduceLeDiff, Nat.reduceAdd, Nat.reduceSub, hid, hafter,
    Nat.reducePow, codes_fit, fourFlags_fit, true_and, and_true]
  exact ⟨hsome, hnone⟩

/-- The slots of a peer's entry (R166, R178). -/
theorem peerBytes_slots (p : PeerEntry) :
    (∀ off len, off + len ≤ 6 → bytesAt (peerBytes p) (8 + off) len = bytesAt (closingBytes p.closing) off len)
      ∧ ∀ off len, bytesAt (peerBytes p) (14 + off) len = bytesAt (earlyBytes p.early) off len := by
  have hid : ∀ rest off len, 4 ≤ off →
      bytesAt (optIdBytes p.lastId ++ rest) off len = bytesAt rest (off - 4) len :=
    fun rest off len h => by rw [bytesAt_append_right (by simpa using h), optIdBytes_length]
  have hslots : ∀ off len, bytesAt (peerBytes p) (8 + off) len
      = bytesAt (closingBytes p.closing ++ earlyBytes p.early) off len := by
    intro off len
    rw [peerBytes_eq, bytesAt_skip (by omega), bytesAt_skip (by omega), hid _ _ _ (by omega),
      bytesAt_skip (by omega), bytesAt_skip (by omega)]
    congr 1
    omega
  refine ⟨fun off len h => ?_, fun off len => ?_⟩
  · rw [hslots, bytesAt_append_left (by rwa [closingBytes_length])]
  · rw [show 14 + off = 8 + (6 + off) by omega, hslots, bytesAt_append_right (by simp [closingBytes_length]),
      closingBytes_length, Nat.add_sub_cancel_left]

/-- A filled closing slot, and an empty one (R178). -/
theorem closingBytes_fields (c : Option ClosingSlot) :
    (∀ k, c = some k → -2 ^ 31 ≤ k.net → k.net < 2 ^ 31 → k.offset.natAbs ≤ 4096 →
        signedOf (bytesAt (closingBytes c) 0 4) = k.net ∧ signedOf (bytesAt (closingBytes c) 4 2) = k.offset)
      ∧ (c = none → fieldAt (closingBytes c) 0 6 = 0) := by
  refine ⟨?_, ?_⟩
  · rintro k rfl hlo hhi hoff
    have hlast : bytesAt (beInt 2 k.offset) 0 2 = beInt 2 k.offset := bytesAt_last 2 _
    simp only [closingBytes, bytesAt_here, bytesAt_skip_signed, Nat.reduceLeDiff, Nat.reduceSub, hlast]
    exact ⟨signedOf_beInt (by omega) (by omega), signedOf_beInt (by omega) (by omega)⟩
  · rintro rfl
    exact fieldAt_zeros 6 0 6

/-- A filled early slot, and an empty one (R178). -/
theorem earlyBytes_fields (e : Option EarlySlot) :
    (∀ k, e = some k → -2 ^ 31 ≤ k.net → k.net < 2 ^ 31 →
        signedOf (bytesAt (earlyBytes e) 0 4) = k.net ∧ fieldAt (earlyBytes e) 4 4 = k.elapsed % 2 ^ 32
          ∧ fieldAt (earlyBytes e) 8 2 = k.delay % 65536)
      ∧ (e = none → fieldAt (earlyBytes e) 0 10 = 0) := by
  refine ⟨?_, ?_⟩
  · rintro k rfl hlo hhi
    simp only [earlyBytes, List.append_assoc, fieldAt, bytesAt_here, bytesAt_skip_signed, bytesAt_skip,
      bytesAt_unsigned, bytesAt_last, beNat_beBytes_mod, Nat.reduceLeDiff, Nat.reduceSub, Nat.reducePow, and_true]
    exact signedOf_beInt (by omega) (by omega)
  · rintro rfl
    exact fieldAt_zeros 10 0 10

end Sys2Proof.Machine
end

section
namespace Sys2Proof.Machine

/-! ## The parts of READ STATUS -/

/-- Offsets 0 to 4 (R178). -/
def statusHead (s : State) : List Byte :=
  beBytes 1 (opCode s.supply.op) ++ (beBytes 1 (opCode s.supply.ret)
    ++ (beBytes 1 (flagCode s.supply.retentionValid + 2 * flagCode s.supply.release.isSome)
    ++ (beBytes 1 (portCode s.sp.state) ++ beBytes 1 s.sp.missing)))

/-- Offsets 5 to 28 under a configuration (R178). -/
def intervalBytes (s : State) : List Byte :=
  beBytes 2 s.it.id.day ++ (beBytes 2 s.it.id.iod ++ (beBytes 4 s.it.elapsed ++ (beBytes 4 s.it.startPos
    ++ (beBytes 4 (s.it.length.getD 0) ++ (beInt 1 s.it.trim ++ (beBytes 1 (flagCode s.it.window.isSome)
    ++ (optIdBytes s.it.window ++ (beBytes 1 s.it.presence ++ beBytes 1 (bandCode s.rb.band)))))))))

/-- Offsets 64 to 73: the open window (R90, R178). -/
def windowBytes (u : Settlement) : List Byte :=
  match u.closing with
  | some f =>
    beBytes 1 1 ++ (beBytes 2 f.id.day ++ (beBytes 2 f.id.iod ++ (beInt 4 f.net
      ++ beBytes 1 (heardNets u.peers).length)))
  | none => zeros 10

/-- Offsets 74 to 86: the streak and the last summary (R178). -/
def summaryBytes (u : Settlement) : List Byte :=
  beBytes 1 u.streak ++ (beBytes 5 u.summary.m ++ (beBytes 5 u.summary.x
    ++ (beBytes 1 u.summary.exporters ++ beBytes 1 (flagCode u.summary.valid))))

/-- Offsets 87 to 98 under a configuration (R178). -/
def capBytes (s : State) : List Byte :=
  beBytes 5 (s.el.effectiveCap.getD 0) ++ (beBytes 1 (flagCode s.el.pendingCap.isSome)
    ++ (beBytes 5 (s.el.pendingCap.getD 0) ++ beBytes 1 (wiredMask s)))

/-- Offsets 99 to 113: the control lines (R178). -/
def linesBytes (s : State) : List Byte :=
  beBytes 1 s.el.latch.toNat ++ (beBytes 1 s.el.shed.length
    ++ (padded 4 (s.el.shed.flatMap fun k => beBytes 1 k.val)
    ++ (beBytes 1 s.el.overCount ++ (beBytes 2 s.el.underCount ++ (beBytes 2 s.el.holdOff
    ++ (beBytes 1 (flagCode s.el.settling) ++ (beBytes 1 (flagCode s.el.level)
    ++ (beBytes 1 (flagCode s.el.cutoffLatch) ++ beBytes 1 (ctlBits s)))))))))

/-- Offsets 144 to 148: the Alert Unit (R178). -/
def alertBytes (a : Alerts) : List Byte :=
  beBytes 2 a.latches.toNat ++ (beBytes 2 a.mask.toNat ++ beBytes 1 (rearmCode a.rearm))

theorem statusHead_length (s : State) : (statusHead s).length = 5 := by simp [statusHead]

theorem intervalBytes_length (s : State) : (intervalBytes s).length = 24 := by simp [intervalBytes]

theorem statusLine_length (l : Line) : (statusLine l).length = 35 := by simp [statusLine, statusChan]

theorem windowBytes_length (u : Settlement) : (windowBytes u).length = 10 := by
  unfold windowBytes
  split <;> simp

theorem summaryBytes_length (u : Settlement) : (summaryBytes u).length = 13 := by simp [summaryBytes]

theorem capBytes_length (s : State) : (capBytes s).length = 12 := by simp [capBytes]

theorem linesBytes_length (s : State) : (linesBytes s).length = 15 := by simp [linesBytes]

theorem statusStore_length {t : Store} (h : t.pages.length = 16) : (statusStore t).length = 30 := by
  simp [statusStore, h]

theorem alertBytes_length (a : Alerts) : (alertBytes a).length = 5 := by simp [alertBytes]

/-- READ STATUS by its parts (R178). -/
theorem statusBytes_eq (s : State) :
    statusBytes s =
      statusHead s ++ (starred s (intervalBytes s) ++ (statusLine s.line ++ (windowBytes s.su
        ++ (summaryBytes s.su ++ (starred s (capBytes s) ++ (linesBytes s ++ (statusStore s.store
        ++ alertBytes s.alerts))))))) := by
  have hu : statusSettlement s.su = windowBytes s.su ++ summaryBytes s.su := by
    unfold statusSettlement windowBytes summaryBytes
    cases s.su.closing <;> simp [idBytes]
  simp only [statusBytes, statusHead, statusIntervals, intervalBytes, hu, statusLimiter, capBytes, linesBytes,
    alertBytes, idBytes, List.append_assoc]

theorem statusBytes_length {s : State} (h : s.store.pages.length = 16) : (statusBytes s).length = 149 := by
  simp [statusBytes_eq, statusHead_length, intervalBytes_length, statusLine_length, windowBytes_length,
    summaryBytes_length, capBytes_length, linesBytes_length, statusStore_length h, alertBytes_length]

section Parts

variable (s : State) {off len : Nat}

theorem status_head (h : off + len ≤ 5) : bytesAt (statusBytes s) off len = bytesAt (statusHead s) off len := by
  rw [statusBytes_eq, bytesAt_append_left (by rwa [statusHead_length])]

/-- The bytes from offset 5 on. -/
theorem status_from5 (h : 5 ≤ off) :
    bytesAt (statusBytes s) off len =
      bytesAt (starred s (intervalBytes s) ++ (statusLine s.line ++ (windowBytes s.su ++ (summaryBytes s.su
        ++ (starred s (capBytes s) ++ (linesBytes s ++ (statusStore s.store ++ alertBytes s.alerts)))))))
        (off - 5) len := by
  rw [statusBytes_eq, bytesAt_append_right (by rwa [statusHead_length]), statusHead_length]

theorem status_intervals (h : 5 ≤ off) (h' : off + len ≤ 29) :
    bytesAt (statusBytes s) off len = bytesAt (starred s (intervalBytes s)) (off - 5) len := by
  rw [status_from5 s h, bytesAt_append_left (by rw [starred_length, intervalBytes_length]; omega)]

/-- The bytes from offset 29 on. -/
theorem status_from29 (h : 29 ≤ off) :
    bytesAt (statusBytes s) off len =
      bytesAt (statusLine s.line ++ (windowBytes s.su ++ (summaryBytes s.su
        ++ (starred s (capBytes s) ++ (linesBytes s ++ (statusStore s.store ++ alertBytes s.alerts))))))
        (off - 29) len := by
  rw [status_from5 s (by omega), bytesAt_append_right (by rw [starred_length, intervalBytes_length]; omega),
    starred_length, intervalBytes_length, Nat.sub_sub]

theorem status_line (h : 29 ≤ off) (h' : off + len ≤ 64) :
    bytesAt (statusBytes s) off len = bytesAt (statusLine s.line) (off - 29) len := by
  rw [status_from29 s h, bytesAt_append_left (by rw [statusLine_length]; omega)]

/-- The bytes from offset 64 on. -/
theorem status_from64 (h : 64 ≤ off) :
    bytesAt (statusBytes s) off len =
      bytesAt (windowBytes s.su ++ (summaryBytes s.su ++ (starred s (capBytes s) ++ (linesBytes s
        ++ (statusStore s.store ++ alertBytes s.alerts))))) (off - 64) len := by
  rw [status_from29 s (by omega), bytesAt_append_right (by rw [statusLine_length]; omega), statusLine_length,
    Nat.sub_sub]

theorem status_window (h : 64 ≤ off) (h' : off + len ≤ 74) :
    bytesAt (statusBytes s) off len = bytesAt (windowBytes s.su) (off - 64) len := by
  rw [status_from64 s h, bytesAt_append_left (by rw [windowBytes_length]; omega)]

/-- The bytes from offset 74 on. -/
theorem status_from74 (h : 74 ≤ off) :
    bytesAt (statusBytes s) off len =
      bytesAt (summaryBytes s.su ++ (starred s (capBytes s) ++ (linesBytes s
        ++ (statusStore s.store ++ alertBytes s.alerts)))) (off - 74) len := by
  rw [status_from64 s (by omega), bytesAt_append_right (by rw [windowBytes_length]; omega), windowBytes_length,
    Nat.sub_sub]

theorem status_summary (h : 74 ≤ off) (h' : off + len ≤ 87) :
    bytesAt (statusBytes s) off len = bytesAt (summaryBytes s.su) (off - 74) len := by
  rw [status_from74 s h, bytesAt_append_left (by rw [summaryBytes_length]; omega)]

/-- The bytes from offset 87 on. -/
theorem status_from87 (h : 87 ≤ off) :
    bytesAt (statusBytes s) off len =
      bytesAt (starred s (capBytes s) ++ (linesBytes s ++ (statusStore s.store ++ alertBytes s.alerts)))
        (off - 87) len := by
  rw [status_from74 s (by omega), bytesAt_append_right (by rw [summaryBytes_length]; omega), summaryBytes_length,
    Nat.sub_sub]

theorem status_caps (h : 87 ≤ off) (h' : off + len ≤ 99) :
    bytesAt (statusBytes s) off len = bytesAt (starred s (capBytes s)) (off - 87) len := by
  rw [status_from87 s h, bytesAt_append_left (by rw [starred_length, capBytes_length]; omega)]

/-- The bytes from offset 99 on. -/
theorem status_from99 (h : 99 ≤ off) :
    bytesAt (statusBytes s) off len =
      bytesAt (linesBytes s ++ (statusStore s.store ++ alertBytes s.alerts)) (off - 99) len := by
  rw [status_from87 s (by omega), bytesAt_append_right (by rw [starred_length, capBytes_length]; omega),
    starred_length, capBytes_length, Nat.sub_sub]

theorem status_lines (h : 99 ≤ off) (h' : off + len ≤ 114) :
    bytesAt (statusBytes s) off len = bytesAt (linesBytes s) (off - 99) len := by
  rw [status_from99 s h, bytesAt_append_left (by rw [linesBytes_length]; omega)]

/-- The bytes from offset 114 on. -/
theorem status_from114 (h : 114 ≤ off) :
    bytesAt (statusBytes s) off len = bytesAt (statusStore s.store ++ alertBytes s.alerts) (off - 114) len := by
  rw [status_from99 s (by omega), bytesAt_append_right (by rw [linesBytes_length]; omega), linesBytes_length,
    Nat.sub_sub]

variable {s}

theorem status_store (h16 : s.store.pages.length = 16) (h : 114 ≤ off) (h' : off + len ≤ 144) :
    bytesAt (statusBytes s) off len = bytesAt (statusStore s.store) (off - 114) len := by
  rw [status_from114 s h, bytesAt_append_left (by rw [statusStore_length h16]; omega)]

theorem status_alerts (h16 : s.store.pages.length = 16) (h : 144 ≤ off) :
    bytesAt (statusBytes s) off len = bytesAt (alertBytes s.alerts) (off - 144) len := by
  rw [status_from114 s (by omega), bytesAt_append_right (by rw [statusStore_length h16]; omega),
    statusStore_length h16, Nat.sub_sub]

end Parts

/-! ## The fields of READ STATUS -/

/-- Offsets 0 to 4 (R178). -/
theorem statusHead_fields (s : State) :
    fieldAt (statusBytes s) 0 1 = opCode s.supply.op ∧ fieldAt (statusBytes s) 1 1 = opCode s.supply.ret
      ∧ fieldAt (statusBytes s) 2 1 = flagCode s.supply.retentionValid + 2 * flagCode s.supply.release.isSome
      ∧ fieldAt (statusBytes s) 3 1 = portCode s.sp.state
      ∧ fieldAt (statusBytes s) 4 1 = s.sp.missing % 256 := by
  simp only [fieldAt, status_head, Nat.reduceAdd, Nat.reduceLeDiff, statusHead, bytesAt_skip, bytesAt_unsigned,
    bytesAt_last, beNat_beBytes_mod, Nat.reduceSub, Nat.reducePow, codes_fit, twoFlags_fit, and_self]

/-- The four bytes of each channel (R178). -/
theorem statusChan_fields (s : State) (ch : Channel) :
    let off := (match ch with | .l => 29 | .h => 33)
    fieldAt (statusBytes s) off 1 = chanCode (chanOf s.line ch).state
      ∧ fieldAt (statusBytes s) (off + 1) 1 = (chanOf s.line ch).errors % 256
      ∧ fieldAt (statusBytes s) (off + 2) 1 = accessCode (chanOf s.line ch).access
      ∧ fieldAt (statusBytes s) (off + 3) 1 = (chanOf s.line ch).attempts % 256 := by
  cases ch <;>
    simp only [fieldAt, status_line, Nat.reduceAdd, Nat.reduceLeDiff, statusLine, statusChan, chanOf,
      List.append_assoc, bytesAt_skip, bytesAt_unsigned, beNat_beBytes_mod, Nat.reduceSub, Nat.reducePow,
      codes_fit, and_self]

/-- Offsets 37 to 39 (R178). -/
theorem statusLine_fields (s : State) :
    fieldAt (statusBytes s) 37 1 = flagCode s.line.barred
      ∧ fieldAt (statusBytes s) 38 1 = outcomeCode s.line.outcome
      ∧ fieldAt (statusBytes s) 39 1 = s.line.sendList.length % 256 := by
  simp only [fieldAt, status_line, Nat.reduceAdd, Nat.reduceLeDiff, statusLine, statusChan, List.append_assoc,
    bytesAt_skip, bytesAt_unsigned, beNat_beBytes_mod, Nat.reduceSub, Nat.reducePow, codes_fit, and_self]

theorem statusEntry_length (e : Entry) : (statusEntry e).length = 6 := by simp [statusEntry, idBytes]

/-- The six bytes of an entry (R178). -/
theorem statusEntry_fields (e : Entry) :
    fieldAt (statusEntry e) 0 1 = kindCode e.kind ∧ fieldAt (statusEntry e) 1 2 = e.id.day % 65536
      ∧ fieldAt (statusEntry e) 3 2 = e.id.iod % 65536
      ∧ fieldAt (statusEntry e) 5 1 = statusCode e.statusL + 4 * statusCode e.statusH := by
  simp only [fieldAt, statusEntry, idBytes, List.append_assoc, bytesAt_skip, bytesAt_unsigned, bytesAt_last,
    beNat_beBytes_mod, Nat.reduceLeDiff, Nat.reduceSub, Nat.reducePow, codes_fit, and_self]

/-- The places of the send list stand at offsets 40 to 63 (R178). -/
theorem status_sendList (s : State) {k len : Nat} (h : k + len ≤ 24) :
    fieldAt (statusBytes s) (40 + k) len = fieldAt (padded 24 (s.line.sendList.flatMap statusEntry)) k len := by
  have hoff : 40 + k - 29 - 1 - 1 - 1 - 1 - 1 - 1 - 1 - 1 - 1 - 1 - 1 = k := by omega
  rw [fieldAt, status_line s (by omega) (by omega)]
  simp only [statusLine, statusChan, List.append_assoc]
  repeat rw [bytesAt_skip (by omega)]
  rw [hoff, fieldAt]

theorem status_sendList_entry (s : State) {n : Nat} (hn : n < 4) :
    (∀ e, s.line.sendList[n]? = some e →
      fieldAt (statusBytes s) (40 + 6 * n) 1 = kindCode e.kind
        ∧ fieldAt (statusBytes s) (41 + 6 * n) 2 = e.id.day % 65536
        ∧ fieldAt (statusBytes s) (43 + 6 * n) 2 = e.id.iod % 65536
        ∧ fieldAt (statusBytes s) (45 + 6 * n) 1 = statusCode e.statusL + 4 * statusCode e.statusH)
      ∧ (s.line.sendList[n]? = none → fieldAt (statusBytes s) (40 + 6 * n) 6 = 0) := by
  refine ⟨fun e he => ?_, fun he => ?_⟩
  · have hplace : ∀ k len, k + len ≤ 6 →
        fieldAt (statusBytes s) (40 + (6 * n + k)) len = fieldAt (statusEntry e) k len := fun k len h => by
      rw [status_sendList s (by omega), fieldAt_padded_place statusEntry_length he h (by omega)]
    obtain ⟨hkind, hday, hiod, hstatus⟩ := statusEntry_fields e
    refine ⟨(hplace 0 1 (by omega)).trans hkind, ?_, ?_, ?_⟩
    · rw [show 41 + 6 * n = 40 + (6 * n + 1) by omega, hplace 1 2 (by omega), hday]
    · rw [show 43 + 6 * n = 40 + (6 * n + 3) by omega, hplace 3 2 (by omega), hiod]
    · rw [show 45 + 6 * n = 40 + (6 * n + 5) by omega, hplace 5 1 (by omega), hstatus]
  · rw [status_sendList s (by omega), fieldAt_padded_unused statusEntry_length he (by omega)]

/-- The open window (R90, R178). -/
theorem statusWindow_fields (s : State) :
    fieldAt (statusBytes s) 64 1 = flagCode s.su.closing.isSome
      ∧ (∀ f, s.su.closing = some f →
          fieldAt (statusBytes s) 65 2 = f.id.day % 65536 ∧ fieldAt (statusBytes s) 67 2 = f.id.iod % 65536
            ∧ (-2 ^ 31 ≤ f.net → f.net < 2 ^ 31 → signedOf (bytesAt (statusBytes s) 69 4) = f.net)
            ∧ fieldAt (statusBytes s) 73 1 = (heardNets s.su.peers).length % 256)
      ∧ (s.su.closing = none → fieldAt (statusBytes s) 65 9 = 0) := by
  simp only [fieldAt, status_window, Nat.reduceAdd, Nat.reduceLeDiff, Nat.reduceSub, windowBytes]
  cases s.su.closing with
  | none => exact ⟨fieldAt_zeros 10 0 1, nofun, fun _ => fieldAt_zeros 10 1 9⟩
  | some f =>
    simp only [bytesAt_skip, bytesAt_skip_signed, bytesAt_unsigned, bytesAt_here, bytesAt_last,
      beNat_beBytes_mod, Nat.reduceLeDiff, Nat.reduceSub, Nat.reducePow, and_true]
    refine ⟨rfl, ?_, nofun⟩
    rintro g hg
    obtain rfl : f = g := Option.some.inj hg
    exact ⟨rfl, rfl, fun hlo hhi => signedOf_beInt (by omega) (by omega)⟩

/-- The streak and the summary (R178). -/
theorem statusSummary_fields (s : State) :
    fieldAt (statusBytes s) 74 1 = s.su.streak % 256 ∧ fieldAt (statusBytes s) 75 5 = s.su.summary.m % 2 ^ 40
      ∧ fieldAt (statusBytes s) 80 5 = s.su.summary.x % 2 ^ 40
      ∧ fieldAt (statusBytes s) 85 1 = s.su.summary.exporters % 256
      ∧ fieldAt (statusBytes s) 86 1 = flagCode s.su.summary.valid := by
  simp only [fieldAt, status_summary, Nat.reduceAdd, Nat.reduceLeDiff, summaryBytes, bytesAt_skip,
    bytesAt_unsigned, bytesAt_last, beNat_beBytes_mod, Nat.reduceSub, Nat.reducePow, codes_fit, and_self]

/-- The places of the shed stack stand at offsets 101 to 104 (R178). -/
theorem status_shed (s : State) {n : Nat} (hn : n < 4) :
    (∀ k, s.el.shed[n]? = some k → fieldAt (statusBytes s) (101 + n) 1 = k.val)
      ∧ (s.el.shed[n]? = none → fieldAt (statusBytes s) (101 + n) 1 = 0) := by
  have hoff : 101 + n - 99 - 1 - 1 = n := by omega
  have hpart : fieldAt (statusBytes s) (101 + n) 1
      = fieldAt (padded 4 (s.el.shed.flatMap fun k => beBytes 1 k.val)) n 1 := by
    rw [fieldAt, status_lines s (by omega) (by omega), linesBytes, bytesAt_skip (by omega),
      bytesAt_skip (by omega), bytesAt_append_left (by rw [padded_length]; omega), hoff, fieldAt]
  have hlen : ∀ k : Fin 4, (beBytes 1 k.val).length = 1 := fun _ => beBytes_length _ _
  rw [hpart]
  refine ⟨fun k hk => ?_, fun hk => ?_⟩
  · have hplace := fieldAt_padded_place hlen hk (total := 4) (off := 0) (len := 1) (by omega) (by omega)
    rw [Nat.one_mul, Nat.add_zero, fieldAt_last] at hplace
    exact hplace.trans (masks_fit 0 0 0 k).2.2.2
  · have hunused := fieldAt_padded_unused hlen hk (total := 4) (len := 1) (by omega)
    rwa [Nat.one_mul] at hunused

/-- The control lines (R114, R178). -/
theorem statusLines_fields (s : State) :
    fieldAt (statusBytes s) 99 1 = s.el.latch.toNat ∧ fieldAt (statusBytes s) 100 1 = s.el.shed.length % 256
      ∧ fieldAt (statusBytes s) 105 1 = s.el.overCount % 256
      ∧ fieldAt (statusBytes s) 106 2 = s.el.underCount % 65536
      ∧ fieldAt (statusBytes s) 108 2 = s.el.holdOff % 65536
      ∧ fieldAt (statusBytes s) 110 1 = flagCode s.el.settling ∧ fieldAt (statusBytes s) 111 1 = flagCode s.el.level
      ∧ fieldAt (statusBytes s) 112 1 = flagCode s.el.cutoffLatch ∧ fieldAt (statusBytes s) 113 1 = ctlBits s := by
  have hmask : ∀ w : BitVec 4, w.toNat % 256 = w.toNat := fun w => (masks_fit w 0 0 0).1
  have hshed : ∀ rest off len, 4 ≤ off →
      bytesAt (padded 4 (s.el.shed.flatMap fun k => beBytes 1 k.val) ++ rest) off len = bytesAt rest (off - 4) len :=
    fun rest off len h => by rw [bytesAt_append_right (by rwa [padded_length]), padded_length]
  simp only [fieldAt, status_lines, Nat.reduceAdd, Nat.reduceLeDiff, linesBytes, bytesAt_skip, hshed,
    bytesAt_unsigned, bytesAt_last, beNat_beBytes_mod, Nat.reduceSub, Nat.reducePow, codes_fit, hmask, ctlBits,
    fourFlags_fit, and_self]

end Sys2Proof.Machine
end

section
namespace Sys2Proof.Machine

section StoreFields

variable {s : State} (h16 : s.store.pages.length = 16)

include h16

/-- The states of the pages stand at offsets 114 to 129 (R178). -/
theorem status_page {n : Nat} {p : Page} (hp : s.store.pages[n]? = some p) :
    fieldAt (statusBytes s) (114 + n) 1 = pageCode p.state := by
  obtain ⟨hn, _⟩ := List.getElem?_eq_some_iff.mp hp
  have hlen : ∀ p : Page, (beBytes 1 (pageCode p.state)).length = 1 := fun _ => beBytes_length _ _
  rw [fieldAt, status_store h16 (by omega) (by omega), Nat.add_sub_cancel_left]
  simp only [statusStore, List.append_assoc]
  have hplace := fun rest => fieldAt_place hlen hp rest (off := 0) (len := 1) (by omega)
  simp only [Nat.one_mul, Nat.add_zero, fieldAt_last] at hplace
  exact (hplace _).trans (codes_fit.2.2.2.2.2.1 p.state)

/-- The write position, "blocked" and the number of held records (R138, R178). -/
theorem statusStore_fields :
    fieldAt (statusBytes s) 130 1 = s.store.writePage % 256 ∧ fieldAt (statusBytes s) 131 1 = s.store.writeSlot % 256
      ∧ fieldAt (statusBytes s) 132 1 = flagCode (storeBlocked s.store)
      ∧ fieldAt (statusBytes s) 133 1 = s.store.held.length % 256 := by
  have hpages : ∀ rest off len, 16 ≤ off →
      bytesAt ((s.store.pages.flatMap fun p => beBytes 1 (pageCode p.state)) ++ rest) off len
        = bytesAt rest (off - 16) len := fun rest off len h => by
    rw [bytesAt_append_right (by simpa [h16] using h)]
    simp [h16]
  simp only [fieldAt, status_store h16, Nat.reduceAdd, Nat.reduceLeDiff, statusStore, List.append_assoc, hpages,
    bytesAt_skip, bytesAt_unsigned, beNat_beBytes_mod, Nat.reduceSub, Nat.reducePow, codes_fit, and_self]

/-- The places of the held list stand at offsets 134 to 143 (R138, R178). -/
theorem status_held {n : Nat} (hn : n < 5) :
    (∀ r, s.store.held[n]? = some r →
      fieldAt (statusBytes s) (134 + 2 * n) 1 = bandCode r.band
        ∧ fieldAt (statusBytes s) (135 + 2 * n) 1 = r.mergeCount % 256)
      ∧ (s.store.held[n]? = none → fieldAt (statusBytes s) (134 + 2 * n) 2 = 0) := by
  have hpart : ∀ k len, k + len ≤ 10 → fieldAt (statusBytes s) (134 + k) len
      = fieldAt (padded 10 (s.store.held.flatMap fun r => beBytes 1 (bandCode r.band) ++ beBytes 1 r.mergeCount))
          k len := fun k len h => by
    have hoff : 134 + k - 114 - 16 - 1 - 1 - 1 - 1 = k := by omega
    rw [fieldAt, status_store h16 (by omega) (by omega)]
    simp only [statusStore, List.append_assoc]
    rw [bytesAt_append_right (by simp [h16]; omega), List.length_flatMap]
    simp only [beBytes_length, List.map_const', List.sum_replicate, h16, smul_eq_mul, Nat.mul_one]
    rw [bytesAt_skip (by omega), bytesAt_skip (by omega), bytesAt_skip (by omega), bytesAt_skip (by omega), hoff,
      fieldAt]
  have hlen : ∀ r : Record, (beBytes 1 (bandCode r.band) ++ beBytes 1 r.mergeCount).length = 2 := by simp
  refine ⟨fun r hr => ?_, fun hr => ?_⟩
  · have hband := fieldAt_padded_place hlen hr (total := 10) (off := 0) (len := 1) (by omega) (by omega)
    have hcount := fieldAt_padded_place hlen hr (total := 10) (off := 1) (len := 1) (by omega) (by omega)
    simp only [fieldAt_here, fieldAt_skip, fieldAt_last, Nat.le_refl, Nat.sub_self, Nat.add_zero, Nat.reducePow,
      codes_fit] at hband hcount
    refine ⟨(hpart _ 1 (by omega)).trans hband, ?_⟩
    rw [show 135 + 2 * n = 134 + (2 * n + 1) by omega, hpart _ 1 (by omega), hcount]
  · rw [hpart _ 2 (by omega), fieldAt_padded_unused hlen hr (by omega)]

/-- The latches, the mask and the re-arm state (R178). -/
theorem statusAlerts_fields :
    fieldAt (statusBytes s) 144 2 = s.alerts.latches.toNat ∧ fieldAt (statusBytes s) 146 2 = s.alerts.mask.toNat
      ∧ fieldAt (statusBytes s) 148 1 = rearmCode s.alerts.rearm := by
  have hmask : ∀ w : BitVec 9, w.toNat % 65536 = w.toNat := fun w => (masks_fit 0 w 0 0).2.1
  simp only [fieldAt, status_alerts h16, Nat.reduceLeDiff, alertBytes, bytesAt_skip, bytesAt_unsigned, bytesAt_last,
    beNat_beBytes_mod, Nat.reduceSub, Nat.reducePow, codes_fit, hmask, and_self]

end StoreFields

/-! ## Fields that depend on the configuration -/

theorem unconfigured_iff (s : State) :
    unconfigured s = true ↔ s.supply.op = .start ∨ (s.supply.op = .hold ∧ s.supply.ret = .start) := by
  simp [unconfigured]

/-- With none in force they are 0 in every byte (R164). -/
theorem status_unconfigured {s : State} (h : unconfigured s = true) :
    bytesAt (statusBytes s) 5 24 = List.replicate 24 0x00#8
      ∧ bytesAt (statusBytes s) 87 12 = List.replicate 12 0x00#8 := by
  rw [status_intervals s (by omega) (by omega), status_caps s (by omega) (by omega), starred, starred, if_pos h,
    if_pos h, intervalBytes_length, capBytes_length]
  exact ⟨rfl, rfl⟩

/-- With one in force they stand as they are (R164). -/
theorem starred_of_configured {s : State} (h : unconfigured s = false) (bs : List Byte) : starred s bs = bs := by
  simp [starred, h]

section Configured

variable {s : State} (h : unconfigured s = false)

include h

/-- The Interval Timer and the band (R178). -/
theorem statusIntervals_fields :
    fieldAt (statusBytes s) 5 2 = s.it.id.day % 65536 ∧ fieldAt (statusBytes s) 7 2 = s.it.id.iod % 65536
      ∧ fieldAt (statusBytes s) 9 4 = s.it.elapsed % 2 ^ 32 ∧ fieldAt (statusBytes s) 13 4 = s.it.startPos % 2 ^ 32
      ∧ fieldAt (statusBytes s) 17 4 = s.it.length.getD 0 % 2 ^ 32
      ∧ (-32 ≤ s.it.trim → s.it.trim ≤ 32 → signedOf (bytesAt (statusBytes s) 21 1) = s.it.trim)
      ∧ fieldAt (statusBytes s) 22 1 = flagCode s.it.window.isSome
      ∧ (∀ id, s.it.window = some id →
          fieldAt (statusBytes s) 23 2 = id.day % 65536 ∧ fieldAt (statusBytes s) 25 2 = id.iod % 65536)
      ∧ (s.it.window = none → fieldAt (statusBytes s) 23 4 = 0)
      ∧ fieldAt (statusBytes s) 27 1 = s.it.presence % 256 ∧ fieldAt (statusBytes s) 28 1 = bandCode s.rb.band := by
  obtain ⟨hsome, hnone⟩ := optIdBytes_fields s.it.window
  have hid : ∀ rest off len, off + len ≤ 4 →
      bytesAt (optIdBytes s.it.window ++ rest) off len = bytesAt (optIdBytes s.it.window) off len :=
    fun rest off len h => bytesAt_append_left (by simpa using h)
  have hafter : ∀ rest off len, 4 ≤ off →
      bytesAt (optIdBytes s.it.window ++ rest) off len = bytesAt rest (off - 4) len :=
    fun rest off len h => by rw [bytesAt_append_right (by simpa using h), optIdBytes_length]
  simp only [fieldAt] at hsome hnone
  simp only [fieldAt, status_intervals, starred_of_configured h, Nat.reduceAdd, Nat.reduceLeDiff, intervalBytes,
    bytesAt_skip, bytesAt_skip_signed, hid, hafter, bytesAt_unsigned, bytesAt_here, bytesAt_last, beNat_beBytes_mod,
    Nat.reduceSub, Nat.reducePow, codes_fit, true_and, and_true]
  exact ⟨fun hlo hhi => signedOf_beInt (by omega) (by omega), hsome, hnone⟩

/-- The caps and the wired mask (R178). -/
theorem statusCaps_fields :
    fieldAt (statusBytes s) 87 5 = s.el.effectiveCap.getD 0 % 2 ^ 40
      ∧ fieldAt (statusBytes s) 92 1 = flagCode s.el.pendingCap.isSome
      ∧ fieldAt (statusBytes s) 93 5 = s.el.pendingCap.getD 0 % 2 ^ 40
      ∧ ∀ c, s.config = some c → fieldAt (statusBytes s) 98 1 = c.wired.toNat := by
  have hmask : ∀ w : BitVec 4, w.toNat % 256 = w.toNat := fun w => (masks_fit w 0 0 0).1
  simp only [fieldAt, status_caps, starred_of_configured h, Nat.reduceAdd, Nat.reduceLeDiff, capBytes, bytesAt_skip,
    bytesAt_unsigned, bytesAt_last, beNat_beBytes_mod, Nat.reduceSub, Nat.reducePow, codes_fit, true_and]
  intro c hc
  rw [wiredMask, hc]
  exact hmask c.wired

end Configured

/-! ## The rows -/

section Rows

variable {s : State} (hn : nothingDue s = true) (hserve : s.port.serving = true)

include hn hserve

theorem exec_readStatus : exec .readStatus s = .next (answered [0x02#8] 0xA0#8 (statusBytes s) s) := by
  rw [exec_after, after, served_takeDue hn hserve, readStatusActs, respond_eq_answered]
  rfl

theorem exec_readTotals : exec .readTotals s = .next (answered [0x03#8] 0xA0#8 (totalsBytes s) s) := by
  rw [exec_after, after, served_takeDue hn hserve, readTotalsActs, respond_eq_answered]
  rfl

/-- READ_RECORD by what it finds (R137). -/
theorem exec_readRecord (page slot : Byte) :
    exec (.readRecord page slot) s =
      .next (if 15 < page.toNat ∨ 15 < slot.toNat then answered [0x04#8, page, slot] 0xA3#8 [] s
        else (recordAt s.store page.toNat slot.toNat).elim (answered [0x04#8, page, slot] 0xA7#8 [] s)
          fun r => answered [0x04#8, page, slot] 0xA0#8 (recordBytes r) s) := by
  rw [exec_after, after, served_takeDue hn hserve, readRecordActs]
  congr 1
  split
  · rfl
  · cases recordAt s.store page.toNat slot.toNat <;> rfl

/-- READ_PEER in RUN and RESYNC by what it finds (R166). -/
theorem exec_readPeer (hl : isLive s = true) (station : Byte) :
    exec (.readPeer station) s =
      .next (if 15 < station.toNat then answered [0x0C#8, station] 0xA3#8 [] s
        else (peerOf s.su.peers station.toNat).elim (answered [0x0C#8, station] 0xA6#8 [] s)
          fun p => answered [0x0C#8, station] 0xA0#8 (peerBytes p) s) := by
  rw [exec_after, after, served_takeDue hn hserve, readPeerActs, hl]
  congr 1
  simp only [Bool.not_true, Bool.false_eq_true, if_false]
  split
  · rfl
  · cases peerOf s.su.peers station.toNat <;> rfl

end Rows

/-- The view has an entry for each station number but the part's own, and none for that (R78). -/
theorem peerOf_of_law {s : State} {c : Setup} (h : PeerLaw s) (hc : s.config = some c) {n : Nat} (hn : n ≤ 15) :
    (n = c.station → peerOf s.su.peers n = none)
      ∧ (n ≠ c.station → ∃ p ∈ s.su.peers, p.station = some n ∧ peerOf s.su.peers n = some p) := by
  have hkeys : some n ∈ s.su.peers.map (·.station) ↔ n ≠ c.station := by
    rw [h.1 c hc]
    simp only [List.mem_map, List.mem_filter, List.mem_range, bne_iff_ne, Option.some.injEq, exists_eq_right]
    exact and_iff_right (by omega)
  refine ⟨fun hown => ?_, fun hother => ?_⟩
  · rw [peerOf, List.find?_eq_none]
    intro p hp hst
    exact hkeys.mp (List.mem_map.mpr ⟨p, hp, by simpa using hst⟩) hown
  · obtain ⟨p, hp, hst⟩ := List.mem_map.mp (hkeys.mpr hother)
    obtain ⟨q, hq⟩ := Option.isSome_iff_exists.mp
      (List.find?_isSome (p := fun p : PeerEntry => p.station == some n).mpr ⟨p, hp, by simp [hst]⟩)
    exact ⟨q, List.mem_of_find?_eq_some hq, by simpa using List.find?_some hq, hq⟩

end Sys2Proof.Machine
end

section
namespace Sys2Proof.Machine

/-! ## The readings as a whole -/

/-- Settles O55: each layout is read off the bytes part by part, and each row only writes its response. -/
theorem readingsChangeNothing : Obligations.ReadingsChangeNothing := by
  refine ⟨?_, ?_, ?_, ?_, ?_, ?_⟩
  · intro s hn hserve
    refine ⟨exec_readStatus hn hserve, exec_readTotals hn hserve, totalsBytes_length s, statusBytes_length,
      recordBytes_length, fun page slot => ?_⟩
    rw [exec_readRecord hn hserve]
    refine ⟨fun hbad => by rw [if_pos hbad], fun hpage hslot => ?_⟩
    rw [if_neg (by omega)]
    exact ⟨fun r hr => by rw [hr]; rfl, fun hr => by rw [hr]; rfl⟩
  · intro s b flag op copy code h16
    obtain ⟨h0, h1, h2, h3, h4⟩ := statusHead_fields s
    obtain ⟨h37, h38, h39⟩ := statusLine_fields s
    obtain ⟨h64, hopen, hclosed⟩ := statusWindow_fields s
    obtain ⟨h74, h75, h80, h85, h86⟩ := statusSummary_fields s
    obtain ⟨h99, h100, h105, h106, h108, h110, h111, h112, h113⟩ := statusLines_fields s
    obtain ⟨h130, h131, h132, h133⟩ := statusStore_fields h16
    obtain ⟨h144, h146, h148⟩ := statusAlerts_fields h16
    refine ⟨h0, h1, h2, h3, h4, statusChan_fields s, h37, h38, h39, fun n hn => status_sendList_entry s hn, h64,
      h74, hopen, hclosed, h75, h80, h85, h86, h99, h100, fun n hn => status_shed s hn, h105, h106, h108, h110,
      h111, h112, h113, fun n p hp => status_page h16 hp, h130, h131, h132, h133, fun n hn => status_held h16 hn,
      h144, h146, h148, fun hop => status_unconfigured ((unconfigured_iff s).mpr hop), fun hop => ?_⟩
    have hconf : unconfigured s = false := by
      rw [Bool.eq_false_iff, ne_eq, unconfigured_iff]
      rcases hop with h | h | ⟨h, hr⟩
      · simp [h]
      · simp [h]
      · simp [h, hr]
    obtain ⟨h5, h7, h9, h13, h17, h21, h22, hwin, hnone, h27, h28⟩ := statusIntervals_fields hconf
    obtain ⟨h87, h92, h93, h98⟩ := statusCaps_fields hconf
    exact ⟨h5, h7, h9, h13, fun n hlen => by rw [h17, hlen]; rfl, h21, h22, hwin, hnone,
      fun hlen => by rw [h17, hlen]; rfl, h27, h28, fun n hcap => by rw [h87, hcap]; rfl, h92,
      fun n hcap => by rw [h93, hcap]; rfl, fun hcap => by rw [h87, hcap]; rfl,
      fun hcap => by rw [h93, hcap]; rfl, h98⟩
  · intro s b
    obtain ⟨hbands, himp, hexp, hq⟩ := totalsBytes_fields s
    exact ⟨hbands, himp, hexp, fun q h => by rw [hq, h]; rfl, fun h => by rw [hq, h]; rfl⟩
  · exact recordBytes_fields
  · intro p b flag
    obtain ⟨h0, h1, hid, hnoId, h6, h7⟩ := peerBytes_head p
    obtain ⟨hclosing, hearly⟩ := peerBytes_slots p
    obtain ⟨hslot, hnoSlot⟩ := closingBytes_fields p.closing
    obtain ⟨hreport, hnoReport⟩ := earlyBytes_fields p.early
    refine ⟨h0, h1, hid, h6, h7, fun k hk hlo hhi hoff => ?_, fun k hk hlo hhi => ?_, hnoId, fun h => ?_,
      fun h => ?_⟩
    · obtain ⟨hnet, hoffset⟩ := hslot k hk hlo hhi hoff
      exact ⟨(congrArg signedOf (hclosing 0 4 (by omega))).trans hnet,
        (congrArg signedOf (hclosing 4 2 (by omega))).trans hoffset⟩
    · obtain ⟨hnet, helapsed, hdelay⟩ := hreport k hk hlo hhi
      exact ⟨(congrArg signedOf (hearly 0 4)).trans hnet, (congrArg beNat (hearly 4 4)).trans helapsed,
        (congrArg beNat (hearly 8 2)).trans hdelay⟩
    · exact (congrArg beNat (hclosing 0 6 (by omega))).trans (hnoSlot h)
    · exact (congrArg beNat (hearly 0 10)).trans (hnoReport h)
  · intro s c station hn hc hlaw hl hserve
    rw [exec_readPeer hn hserve hl]
    refine ⟨fun hbad => by rw [if_pos hbad], fun hle hown => ?_, fun hle hother => ?_⟩
    · rw [if_neg (by omega), (peerOf_of_law hlaw hc hle).1 hown]
      rfl
    · obtain ⟨p, hp, hst, hfound⟩ := (peerOf_of_law hlaw hc hle).2 hother
      refine ⟨p, hp, hst, peerBytes_length p, ?_⟩
      rw [if_neg (by omega), hfound]
      rfl

end Sys2Proof.Machine
end

section
/-! SUPPORT. The Export Limiter's statements: the law of the shed stack under every step, active lines, a
block at the limiter, the host's control of the lines, and the CUTOFF filter. -/

namespace Sys2Proof.Machine

/-! ## The law of the shed stack under every step -/

/-- A CUTOFF sample empties the stack as it sets the cutoff latch, and otherwise leaves both as they are
(R116, R117). -/
theorem sampleLimiter_keeps_shed (sample live : Bool) {e : Limiter} (h : ShedLaw e) :
    ShedLaw (sampleLimiter sample live e) := by
  obtain ⟨hshed, hlatch, hcut⟩ := filterSample_limits sample e
  unfold sampleLimiter
  split
  · exact setCutoff_keeps_shed _ _
  · exact h.of_eq hshed hlatch hcut

theorem shedLaw_closed : LimiterClosed fun _ e => ShedLaw e where
  judge c live net _ h := judgeBlock_keeps_shed c live net h
  start _ _ h := startFlags_keeps_shed h
  hand _ n _ h _ := handCap_keeps_shed n h
  sample _ sample live _ h := sampleLimiter_keeps_shed sample live h
  hold _ e _ := limiterHold_keeps_shed e
  settle _ _ h := h.of_eq rfl rfl rfl
  release _ _ := fun ⟨hnodup, hlatch, _⟩ => ⟨hnodup, hlatch, nofun⟩
  latch c new _ h := writeLatch_keeps_shed c new h
  accept _ _ _ h _ := h.of_eq rfl rfl rfl
  reset := ⟨List.nodup_nil, nofun, fun _ => rfl⟩

/-- Settles O8: each operation on the limiter keeps the law. -/
theorem shedLawIsKept : Obligations.ShedLawIsKept :=
  limiter_kept shedLaw_closed

/-! ## Active lines -/

/-- The five conditions of an active line (R114). -/
theorem lineActive_iff (c : Setup) (live : Bool) (e : Limiter) (k : Fin 4) :
    lineActive c live e k = true ↔
      e.latch.getLsbD k = true ∧ c.wired.getLsbD k = true ∧ k ∉ e.shed ∧ e.cutoffLatch = false
        ∧ live = true := by
  simp only [lineActive, Bool.and_eq_true, Bool.not_eq_true', List.contains_eq_mem, decide_eq_false_iff_not]
  tauto

theorem ctlOutput_of_config {s : State} {c : Setup} (hc : s.config = some c) (k : Fin 4) :
    ctlOutput s k = lineActive c (isLive s) s.el k := by
  simp [ctlOutput, hc]

/-- In a list of all values from the highest down, the first that has a property is the highest that has
it. -/
theorem find?_descending {α : Type} [LinearOrder α] {l : List α} (hl : l.Pairwise (· > ·))
    (hall : ∀ a, a ∈ l) (p : α → Bool) (k : α) :
    l.find? p = some k ↔ p k = true ∧ ∀ j, k < j → p j = false := by
  rw [List.find?_eq_some_iff_append]
  refine and_congr_right fun _ => ⟨?_, fun habove => ?_⟩
  · rintro ⟨above, below, rfl, hfail⟩ j hj
    obtain ⟨_, hbelow, _⟩ := List.pairwise_append.mp hl
    rcases List.mem_append.mp (hall j) with hmem | hmem
    · simpa using hfail j hmem
    · rcases List.mem_cons.mp hmem with rfl | hmem
      · exact absurd hj (lt_irrefl _)
      · exact absurd hj (lt_asymm (List.rel_of_pairwise_cons hbelow hmem))
  · obtain ⟨above, below, rfl⟩ := List.append_of_mem (hall k)
    obtain ⟨_, _, hgt⟩ := List.pairwise_append.mp hl
    exact ⟨above, below, rfl, fun j hj => by simp [habove j (hgt j hj k List.mem_cons_self)]⟩

/-- The line a shed takes is the highest-numbered active one (R115). -/
theorem highestActive_eq_some (c : Setup) (live : Bool) (e : Limiter) (k : Fin 4) :
    highestActive c live e = some k ↔
      lineActive c live e k = true ∧ ∀ j, k < j → lineActive c live e j = false :=
  find?_descending (by decide) (by decide) _ k

theorem highestActive_eq_none (c : Setup) (live : Bool) (e : Limiter) :
    highestActive c live e = none ↔ ∀ k, lineActive c live e k = false := by
  have hall : ∀ k : Fin 4, k ∈ [3, 2, 1, 0] := by decide
  simp only [highestActive, List.find?_eq_none, Bool.not_eq_true]
  exact ⟨fun h k => h k (hall k), fun h k _ => h k⟩

/-- Settles O23. -/
theorem controlLineActiveExactlyUnderFiveConditions :
    Obligations.ControlLineActiveExactlyUnderFiveConditions := by
  intro s c hc
  simp only [ctlOutput_of_config hc]
  refine ⟨fun k => ?_, highestActive_eq_some c _ _, highestActive_eq_none c _ _⟩
  rw [lineActive_iff, isLive_iff]

/-! ## A block at the limiter -/

/-- The cap in force once a waiting one has been taken (R105). -/
theorem takeCap_of_cap {e : Limiter} {cap : Nat}
    (h : (e.pendingCap.orElse fun _ => e.effectiveCap) = some cap) :
    takeCap e = { e with effectiveCap := some cap, pendingCap := none } := by
  cases e with
  | mk effective pending =>
    cases pending <;> cases h <;> rfl

/-- A settling limiter lets the block pass unjudged (R107). -/
theorem judgeBlock_of_settling {e : Limiter} (h : e.settling = true) (c : Setup) (live : Bool) (net : Nat) :
    judgeBlock c live net e = { takeCap e with settling := false } := by
  simp [judgeBlock, verdict, h]

/-- A limiter that holds off lets the block pass unjudged (R107). -/
theorem judgeBlock_of_holdOff {e : Limiter} (hset : e.settling = false) (hoff : 0 < e.holdOff) (c : Setup)
    (live : Bool) (net : Nat) :
    judgeBlock c live net e = { takeCap e with holdOff := e.holdOff - 1 } := by
  simp [judgeBlock, verdict, hset, hoff]

section Judged

variable {e : Limiter} {cap : Nat} (c : Setup) (live : Bool) {net : Nat}
  (hcap : (e.pendingCap.orElse fun _ => e.effectiveCap) = some cap)

include hcap in
/-- A block is above the cap exactly where it passes the gate of R107 and exports more (R108). -/
theorem verdict_eq_above_iff :
    verdict net (takeCap e) = .above ↔ e.settling = false ∧ e.holdOff = 0 ∧ cap < net := by
  rw [takeCap_of_cap hcap]
  unfold verdict
  dsimp only
  split_ifs with hset hoff hover hquiet
  · simp [hset]
  · simp [hoff.ne']
  · simp [hset, hover, Nat.eq_zero_of_not_pos hoff]
  · simp [hover]
  · simp [hover]

include hcap

/-- The EXPORT_UNSHED condition: the third block in a row above the cap finds no line active (R108). -/
theorem firesUnshed_iff :
    firesUnshed c live net e = true ↔
      e.settling = false ∧ e.holdOff = 0 ∧ cap < net ∧ 2 ≤ e.overCount
        ∧ highestActive c live (takeCap e) = none := by
  rw [firesUnshed, Bool.and_eq_true, Bool.and_eq_true, beq_iff_eq, verdict_eq_above_iff hcap, decide_eq_true_eq,
    Option.isNone_iff_eq_none]
  tauto

variable (hset : e.settling = false) (hoff : e.holdOff = 0)

include hset hoff

/-- A judged block above the cap (R108). -/
theorem judgeBlock_of_above (h : cap < net) : judgeBlock c live net e = overBlock c live (takeCap e) := by
  rw [judgeBlock, (verdict_eq_above_iff hcap).mpr ⟨hset, hoff, h⟩]

/-- A judged block well below the cap while lines are shed (R109). -/
theorem judgeBlock_of_quiet (h : net ≤ cap - cap / 8) (hshed : e.shed ≠ []) :
    judgeBlock c live net e = quietBlock c (takeCap e) := by
  have hquiet : verdict net (takeCap e) = .quiet := by
    rw [takeCap_of_cap hcap]
    simp [verdict, hset, hoff, hshed, h, show ¬ cap < net by omega]
  rw [judgeBlock, hquiet]

/-- A judged block that neither sheds nor restores ends both rows (R110). -/
theorem judgeBlock_of_between (h : net ≤ cap) (hband : cap - cap / 8 < net ∨ e.shed = []) :
    judgeBlock c live net e = { takeCap e with overCount := 0, underCount := 0 } := by
  have hbetween : verdict net (takeCap e) = .between := by
    rw [takeCap_of_cap hcap]
    have hover : ¬ cap < net := by omega
    rcases hband with hnet | hempty
    · simp [verdict, hset, hoff, hover, show ¬ net ≤ cap - cap / 8 by omega]
    · simp [verdict, hset, hoff, hover, hempty]
  rw [judgeBlock, hbetween]

end Judged

/-- The first and the second block in a row above the cap are counted (R108). -/
theorem overBlock_counts (c : Setup) (live : Bool) {e : Limiter} (h : e.overCount < 2) :
    overBlock c live e = { e with overCount := e.overCount + 1, underCount := 0 } :=
  if_pos (by omega)

/-- The third block in a row above the cap sheds the highest active line (R108, R115). -/
theorem overBlock_sheds {c : Setup} {live : Bool} {e : Limiter} {k : Fin 4} (h : 2 ≤ e.overCount)
    (hk : highestActive c live e = some k) :
    overBlock c live e =
      { e with
        shed := e.shed ++ [k], overCount := 0, underCount := 0, holdOff := c.holdOffLength
        curtailedSeen := true } := by
  rw [overBlock, if_neg (by omega), hk]

/-- With no line active the third block in a row above the cap sheds none (R108). -/
theorem overBlock_finds_none {c : Setup} {live : Bool} {e : Limiter} (h : 2 ≤ e.overCount)
    (hk : highestActive c live e = none) :
    overBlock c live e = { e with overCount := 0, underCount := 0 } := by
  rw [overBlock, if_neg (by omega), hk]

/-- The blocks that the gate of R107 lets pass, one while settling and then as many as the hold-off, move
neither the stack nor the counts. -/
theorem judgeBlocks_unjudged (c : Setup) (live : Bool) (nets : List Nat) {e : Limiter}
    (hlen : nets.length = e.holdOff + (if e.settling then 1 else 0)) :
    let t := nets.foldl (fun x n => judgeBlock c live n x) e
    t.shed = e.shed ∧ t.overCount = e.overCount ∧ t.underCount = e.underCount ∧ t.holdOff = 0
      ∧ t.settling = false ∧ t.latch = e.latch ∧ t.cutoffLatch = e.cutoffLatch := by
  induction nets generalizing e with
  | nil =>
    obtain ⟨hoff, hset⟩ : e.holdOff = 0 ∧ e.settling = false := by simpa using hlen.symm
    exact ⟨rfl, rfl, rfl, hoff, hset, rfl, rfl⟩
  | cons net rest ih =>
    rw [List.foldl_cons]
    cases hset : e.settling with
    | true =>
      rw [judgeBlock_of_settling hset]
      simpa using ih (e := { takeCap e with settling := false }) (by simpa [hset] using hlen)
    | false =>
      have hoff : rest.length + 1 = e.holdOff := by simpa [hset] using hlen
      rw [judgeBlock_of_holdOff hset (by omega)]
      simpa [hset] using
        ih (e := { takeCap e with holdOff := e.holdOff - 1 }) (by simp [hset]; omega)

/-- Settles O24. -/
theorem blockJudgement : Obligations.BlockJudgement := by
  refine ⟨?_, fun c live nets _ hlen => judgeBlocks_unjudged c live nets hlen⟩
  intro c live net cap e hcap e1
  have htake : takeCap e = e1 := takeCap_of_cap hcap
  have hfires := firesUnshed_iff c live (net := net) hcap
  rw [htake] at hfires
  refine ⟨fun hset => ?_, fun hset hoff => ?_, fun hset hoff => ⟨?_, ?_, ?_, ?_, ?_, ?_⟩, hfires⟩
  · rw [judgeBlock_of_settling hset, htake]
  · rw [judgeBlock_of_holdOff hset hoff, htake]
  · intro hover hcount
    rw [judgeBlock_of_above c live hcap hset hoff hover, htake]
    exact overBlock_counts c live hcount
  · intro hover hcount k hk
    rw [judgeBlock_of_above c live hcap hset hoff hover, htake]
    exact overBlock_sheds hcount hk
  · intro hover hcount hnone
    rw [judgeBlock_of_above c live hcap hset hoff hover, htake]
    exact ⟨overBlock_finds_none hcount hnone, hfires.mpr ⟨hset, hoff, hover, hcount, hnone⟩⟩
  · intro hnet hshed hcount
    rw [judgeBlock_of_quiet c live hcap hset hoff hnet hshed, htake]
    exact if_pos hcount
  · intro hnet hshed hcount
    rw [judgeBlock_of_quiet c live hcap hset hoff hnet hshed, htake]
    exact if_neg (Nat.not_lt.mpr hcount)
  · intro hnet hband
    rw [judgeBlock_of_between c live hcap hset hoff hnet hband, htake]

/-! ## The host's control of the lines -/

/-- The modes SET, OR and AND (R112). -/
theorem latchMode_of_le {mode : Byte} (h : mode.toNat ≤ 2) (old value : BitVec 4) :
    latchMode mode old value =
      some (if mode.toNat = 0 then value else if mode.toNat = 1 then old ||| value else old &&& value) := by
  unfold latchMode
  interval_cases mode.toNat <;> rfl

/-- A byte above 2 names no mode (R112). -/
theorem latchMode_of_gt {mode : Byte} (h : 2 < mode.toNat) (old value : BitVec 4) :
    latchMode mode old value = none := by
  obtain ⟨n, hn⟩ : ∃ n, mode.toNat = n + 3 := ⟨_, (Nat.sub_add_cancel h).symm⟩
  rw [latchMode, hn]
  rfl

/-- Settles O25. -/
theorem hostControlOfTheLines : Obligations.HostControlOfTheLines := by
  refine ⟨fun s c mode value hn hc hl hserve => ?_, fun s hn hl hserve => ?_⟩
  · have hexec : exec (.writeLines mode value) s = .next (writeLinesActs mode value s) := by
      rw [exec_after, after, served_takeDue hn hserve]
    simp only [hexec, writeLinesActs, hc, hl, Bool.not_true, Bool.false_eq_true, if_false]
    refine ⟨fun hbad => ?_, fun hmode hvalue => ?_⟩
    · by_cases hvalue : 15 < value.toNat
      · rw [if_pos hvalue]
        rfl
      · rw [if_neg hvalue, latchMode_of_gt (hbad.resolve_right hvalue)]
        rfl
    · rw [if_neg (Nat.not_lt.mpr hvalue), latchMode_of_le hmode]
      rfl
  · have hexec : exec .releaseCutoff s = .next (releaseCutoffActs s) := by
      rw [exec_after, after, served_takeDue hn hserve]
    simp only [hexec, releaseCutoffActs, hl, Bool.not_true, Bool.false_eq_true, if_false]
    refine ⟨fun hlevel => ?_, fun hlevel hcut => ?_, fun hlevel hcut => ?_⟩
    · rw [if_pos hlevel]
      rfl
    · simp only [hlevel, hcut, Bool.false_eq_true, if_false]
      rfl
    · simp only [hlevel, hcut, Bool.false_eq_true, if_false, if_true]
      rfl

/-! ## The CUTOFF filter -/

/-- Raising CUTOFF latches it, and leaves the re-arm state waiting, only while that is armed (R168). -/
theorem raiseCutoff_eq (a : Alerts) :
    raiseCutoff a =
      if a.rearm = .armed then { a with latches := a.latches ||| 2#9, rearm := .waiting } else a := by
  unfold raiseCutoff
  cases a.rearm <;> rfl

section Filter

variable {sample : Bool} {e : Limiter}

/-- A sample that agrees with the filtered level begins the count again (R116). -/
theorem filterSample_of_agrees (h : sample = e.level) : filterSample sample e = { e with runCount := 0 } :=
  if_pos h

/-- The first and the second sample in a row that differ are counted (R116). -/
theorem filterSample_of_early (hne : sample ≠ e.level) (hrun : e.runCount < 2) :
    filterSample sample e = { e with runCount := e.runCount + 1 } := by
  rw [filterSample, if_neg hne, if_pos hrun]

/-- The third sample in a row that differs changes the filtered level (R116). -/
theorem filterSample_of_third (hne : sample ≠ e.level) (hrun : 2 ≤ e.runCount) :
    filterSample sample e = { e with level := sample, runCount := 0 } := by
  rw [filterSample, if_neg hne, if_neg (Nat.not_lt.mpr hrun)]

theorem levelChanges_iff : levelChanges sample e = true ↔ sample ≠ e.level ∧ 2 ≤ e.runCount := by
  simp [levelChanges]

/-- A sample that does not change the filtered level reaches the filter alone (R116), and CUTOFF is raised
while that level is active (R168). -/
theorem cutoffSampled_of_steady {s : State} (h : ¬ (sample ≠ s.el.level ∧ 2 ≤ s.el.runCount)) :
    cutoffSampled sample s =
      { s with
        el := filterSample sample s.el
        alerts := if s.el.level then raiseCutoff s.alerts else s.alerts } := by
  have hsteady : levelChanges sample s.el = false :=
    Bool.eq_false_of_not_eq_true fun ht => h (levelChanges_iff.mp ht)
  simp [cutoffSampled, sampleLimiter, sampleAlerts, hsteady]

/-- A change of the filtered level to active sets the cutoff latch, with its further effects, and raises
CUTOFF; a change to inactive arms CUTOFF again (R117, R168). -/
theorem cutoffSampled_of_third {s : State} (hne : sample ≠ s.el.level) (hrun : 2 ≤ s.el.runCount) :
    cutoffSampled sample s =
      { s with
        el :=
          if sample then setCutoff (isLive s) { s.el with level := true, runCount := 0 }
          else { s.el with level := false, runCount := 0 }
        alerts := if sample then raiseCutoff s.alerts else rearmCutoff s.alerts } := by
  have hchange : levelChanges sample s.el = true := levelChanges_iff.mpr ⟨hne, hrun⟩
  rw [cutoffSampled, sampleLimiter, sampleAlerts, hchange, filterSample_of_third hne hrun]
  cases sample <;> rfl

end Filter

/-- Where nothing is due and no reset is held, CUTOFF_SAMPLE is the filter's sample (R116). -/
theorem exec_cutoffSample {s : State} (hn : nothingDue s = true) (hheld : s.supply.resetHeld = false)
    (sample : Bool) : exec (.cutoffSample sample) s = .next (cutoffSampled sample s) := by
  rw [exec_after, after, takeDue_of_nothingDue hn, unlessHeld, if_neg (by simp [hheld])]

/-- Settles O26. -/
theorem cutoffSample : Obligations.CutoffSample := by
  intro s sample hn hheld raised
  have hraised : raiseCutoff s.alerts = raised := raiseCutoff_eq s.alerts
  rw [exec_cutoffSample hn hheld]
  refine ⟨fun heq => ?_, fun hne hrun => ?_, fun hsample hlevel hrun => ?_, fun hsample hlevel hrun => ?_⟩
  · rw [cutoffSampled_of_steady (fun ⟨hne, _⟩ => hne heq), filterSample_of_agrees heq, hraised]
  · rw [cutoffSampled_of_steady (fun ⟨_, hthird⟩ => Nat.not_le.mpr hrun hthird), filterSample_of_early hne hrun,
      hraised]
  · subst hsample
    rw [cutoffSampled_of_third (by simp [hlevel]) hrun, ← hraised]
    rfl
  · subst hsample
    rw [cutoffSampled_of_third (by simp [hlevel]) hrun]
    rfl

end Sys2Proof.Machine
end

section
/-! SUPPORT. The Record Store's statements: its law under every step, merging, how a record reaches the
store, and RELEASE_PAGE (R126 to R135). -/

namespace Sys2Proof.Machine

/-! ## The store under every step -/

/-- Settles O7: handing over a record and releasing a SEALED page keep the store's canonical form. -/
theorem storeLawIsKept : Obligations.StoreLawIsKept :=
  store_kept (fun r _ h => putRecord_keeps r h) (fun n _ _ h hq hs => releaseSealed_keeps n h hq hs)
    reset_store_law

/-! ## Merging -/

/-- A limited sum stops at its field's largest value (R132). -/
theorem satSum_eq (top a b : Nat) : satSum top a b = if top < a + b then top else a + b := by
  unfold satSum
  split <;> omega

/-- The flags of a merged entry: those of either record, MERGED, and SATURATED where a sum exceeds its
field (R131, R132). -/
theorem mergeRecord_flag_iff (a b : Record) (n : Nat) :
    (mergeRecord a b).flags.getLsbD n = true ↔
      a.flags.getLsbD n = true ∨ b.flags.getLsbD n = true ∨ n = 5
        ∨ (2 ^ 32 - 1 < a.impQuanta + b.impQuanta ∨ 2 ^ 32 - 1 < a.expQuanta + b.expQuanta
            ∨ 2 ^ 32 - 1 < a.share + b.share ∨ 2 ^ 40 - 1 < a.m + b.m ∨ 2 ^ 40 - 1 < a.x + b.x) ∧ n = 11 := by
  have hflag : ∀ e : Bool, (if e then saturatedFlag else 0) = flagBit 11 e := by decide
  simp only [mergeRecord, hflag, mergedFlag]
  simp only [sumExceeds, BitVec.getLsbD_or, Nat.reduceLT, flagBit_getLsbD, Bool.or_eq_true, Bool.and_eq_true,
    decide_eq_true_eq, true_and, or_assoc]

/-- The two reserved bytes of a record are 0 (R176). -/
theorem recordBytes_reserved (r : Record) : (recordBytes r).drop 38 = [0x00#8, 0x00#8] := by
  unfold recordBytes
  rw [List.drop_left' (by simp [idBytes])]
  rfl

/-- Settles O48. -/
theorem mergeOfRecords : Obligations.MergeOfRecords := by
  intro held new _ _ hband t quanta sums
  refine ⟨rfl, rfl, rfl, hband, ?_, fun n => BitVec.getLsbD_and, rfl, rfl, satSum_eq _ _ _, satSum_eq _ _ _,
    satSum_eq _ _ _, satSum_eq _ _ _, satSum_eq _ _ _, fun n h5 h11 => ?_, ?_, ?_, recordBytes_reserved t,
    putRecord_rb new⟩
  · show min 255 (held.mergeCount + 1) = _
    split <;> omega
  · rw [Bool.eq_iff_iff, mergeRecord_flag_iff]
    simp [h5, h11]
  · rw [mergeRecord_flag_iff]
    simp
  · rw [mergeRecord_flag_iff]
    simp [quanta, sums]

/-! ## Reading the store -/

/-- A store is blocked exactly while the page at its write position is SEALED (R127). -/
theorem storeBlocked_iff (t : Store) :
    storeBlocked t = true ↔ (t.pages[t.writePage]?.map (·.state)) = some .sealed := by
  unfold storeBlocked writePageOf
  cases t.pages[t.writePage]? <;> simp

theorem recordAt_eq_bind (t : Store) (page slot : Nat) :
    recordAt t page slot = (t.pages[page]?).bind fun p => p.records[slot]? := by
  unfold recordAt
  cases t.pages[page]? <;> rfl

/-! ## A record in an open store -/

/-- The causes that a write latches: RECORD, and STORE_BLOCKED where it blocks the store (R128, R129). -/
theorem writeAlerts_eq (t : Store) (a : Alerts) :
    writeAlerts t a =
      { a with latches := a.latches ||| (if storeBlocked t then 0x108#9 else 0x100#9) } := by
  have hrecord : causeBit .record = 0x100#9 := by decide
  have hblocked : causeBit .storeBlocked = 0x008#9 := by decide
  unfold writeAlerts raiseIf
  split <;> simp [raise, hrecord, hblocked, BitVec.or_assoc]

theorem putRecord_of_open (r : Record) {s : State} (ho : storeBlocked s.store = false) :
    putRecord r s =
      { s with store := writeRecord r s.store, alerts := writeAlerts (writeRecord r s.store) s.alerts } :=
  if_neg (by simp [ho])

section Write

variable {t : Store} {p : Page} (r : Record) (hp : t.pages[t.writePage]? = some p)

include hp

/-- A write to a slot before the last leaves the page FILLING (R128). -/
theorem writeRecord_of_lt (h : t.writeSlot < 15) :
    writeRecord r t =
      { t with
        pages := t.pages.set t.writePage ⟨.filling, p.records ++ [r]⟩, writeSlot := t.writeSlot + 1 } := by
  rw [writeRecord_eq r hp, if_neg (by omega)]

/-- A write to the last slot leaves the page SEALED and moves on in ring order (R129). -/
theorem writeRecord_of_last (h : t.writeSlot = 15) :
    writeRecord r t =
      { t with
        pages := t.pages.set t.writePage ⟨.sealed, p.records ++ [r]⟩
        writePage := (t.writePage + 1) % 16, writeSlot := 0 } := by
  rw [writeRecord_eq r hp, if_pos h]

/-- A write touches the page at the write position alone (R128). -/
theorem writeRecord_pages :
    (writeRecord r t).pages =
      t.pages.set t.writePage ⟨if t.writeSlot = 15 then .sealed else .filling, p.records ++ [r]⟩ := by
  rw [writeRecord_eq r hp]
  split <;> rfl

/-- A write to the last slot blocks the store where the next page in ring order is SEALED (R129). -/
theorem storeBlocked_writeRecord_of_last (hlaw : PagesLaw t) (h : t.writeSlot = 15) :
    storeBlocked (writeRecord r t) = true ↔
      (t.pages[(t.writePage + 1) % 16]?.map (·.state)) = some .sealed := by
  obtain ⟨_, hwrite, _⟩ := hlaw
  have hnext : t.writePage ≠ (t.writePage + 1) % 16 := by omega
  rw [storeBlocked_iff, writeRecord_of_last r hp h, List.getElem?_set_ne hnext]

end Write

/-- A record handed over before the last slot leaves the page FILLING and latches RECORD (R128). -/
theorem putRecord_of_lt (r : Record) {s : State} {p : Page} (hlaw : PagesLaw s.store)
    (ho : storeBlocked s.store = false) (hp : s.store.pages[s.store.writePage]? = some p)
    (h : s.store.writeSlot < 15) :
    putRecord r s =
      { s with
        store :=
          { s.store with
            pages := s.store.pages.set s.store.writePage ⟨.filling, p.records ++ [r]⟩
            writeSlot := s.store.writeSlot + 1 }
        alerts := { s.alerts with latches := s.alerts.latches ||| 0x100#9 } } := by
  obtain ⟨hopen, _⟩ := writeRecord_open r hlaw h
  rw [putRecord_of_open r ho, writeAlerts_eq, hopen, writeRecord_of_lt r hp h]
  rfl

/-! ## A record in a blocked store -/

theorem putRecord_of_blocked (r : Record) {s : State} (hb : storeBlocked s.store = true) :
    putRecord r s = { s with store := { s.store with held := holdRecord r s.store.held } } :=
  if_pos hb

/-- A record merges into the first held entry of its band, in its place (R130). -/
theorem holdRecord_merges {r e : Record} {before : List Record} (after : List Record)
    (he : e.band = r.band) (hbefore : ∀ x ∈ before, x.band ≠ r.band) :
    holdRecord r (before ++ e :: after) = before ++ mergeRecord e r :: after := by
  induction before with
  | nil => simp [holdRecord, he]
  | cons x rest ih =>
    obtain ⟨hx, hrest⟩ := List.forall_mem_cons.mp hbefore
    simp [holdRecord, hx, ih hrest]

/-- A record of a band that is not held is appended (R130). -/
theorem holdRecord_appends {r : Record} {held : List Record} (h : ∀ x ∈ held, x.band ≠ r.band) :
    holdRecord r held = held ++ [r] := by
  induction held with
  | nil => rfl
  | cons x rest ih =>
    obtain ⟨hx, hrest⟩ := List.forall_mem_cons.mp h
    simp [holdRecord, hx, ih hrest]

/-- Settles O49: an open store by the two writes, a blocked one by the held list. -/
theorem recordsReachTheStore : Obligations.RecordsReachTheStore := by
  refine ⟨fun s r hlaw ho => ?_, fun s r hb => ⟨?_, ?_⟩, fun t => ⟨storeBlocked_iff t, recordAt_eq_bind t⟩⟩
  · obtain ⟨p, hp⟩ := writePage_exists hlaw
    obtain ⟨hlen, hslot⟩ := open_page hlaw ho hp
    have hlt : s.store.writePage < s.store.pages.length := (List.getElem?_eq_some_iff.mp hp).1
    have hpages := writeRecord_pages r hp
    rw [putRecord_of_open r ho, writeAlerts_eq]
    refine ⟨recordAt_writeRecord_same r hlaw ho, fun _ _ => recordAt_writeRecord_other r hlaw ho, ?_,
      fun h => ?_, fun h => ?_, fun n hn => ?_, ?_, writeRecord_held r _, ?_, rfl, rfl⟩
    · simp [recordAt, hp, hlen]
    · simp [writeRecord_of_lt r hp h, hlt]
    · simp [writeRecord_of_last r hp h, hlt]
    · show (writeRecord r s.store).pages[n]? = _
      rw [hpages, List.getElem?_set_ne hn.symm]
    · show (writeRecord r s.store).pages.length = _
      rw [hpages, List.length_set]
    · rcases Nat.lt_or_eq_of_le hslot with h | h
      · obtain ⟨hopen, _⟩ := writeRecord_open r hlaw h
        simp [hopen, h.ne]
      · simpa [h] using storeBlocked_writeRecord_of_last r hp hlaw h
  · intro before e after hheld he hbefore
    rw [putRecord_of_blocked r hb, hheld, holdRecord_merges after he hbefore]
  · intro hnone
    rw [putRecord_of_blocked r hb, holdRecord_appends hnone]

/-! ## RELEASE_PAGE -/

/-- A flush into an open store hands over its records one by one (R135). -/
theorem flushRecords_of_open (r : Record) (rest : List Record) {s : State} (ho : storeBlocked s.store = false) :
    flushRecords (r :: rest) s = flushRecords rest (putRecord r s) := by
  rw [putRecord_of_open r ho]
  rfl

/-- A flush of records that fit before the last slot leaves them behind the records of the page at the
write position, the page FILLING, and RECORD latched (R135). -/
theorem flushRecords_cons (r : Record) (rest : List Record) {s : State} {p : Page} (hlaw : PagesLaw s.store)
    (ho : storeBlocked s.store = false) (hp : s.store.pages[s.store.writePage]? = some p)
    (hfit : s.store.writeSlot + rest.length < 15) :
    flushRecords (r :: rest) s =
      { s with
        store :=
          { s.store with
            pages := s.store.pages.set s.store.writePage ⟨.filling, p.records ++ r :: rest⟩
            writeSlot := s.store.writeSlot + (r :: rest).length }
        alerts := { s.alerts with latches := s.alerts.latches ||| 0x100#9 } } := by
  induction rest generalizing r s p with
  | nil =>
    rw [flushRecords_of_open r _ ho, putRecord_of_lt r hlaw ho hp hfit]
    rfl
  | cons q rest ih =>
    rw [List.length_cons] at hfit
    have hslot : s.store.writeSlot < 15 := by omega
    have hlt : s.store.writePage < s.store.pages.length := (List.getElem?_eq_some_iff.mp hp).1
    have hput := putRecord_of_lt r hlaw ho hp hslot
    have hstore : (putRecord r s).store = writeRecord r s.store := by rw [putRecord_of_open r ho]
    have hlaw' : PagesLaw (putRecord r s).store := hstore ▸ writeRecord_keeps r hlaw ho
    have ho' : storeBlocked (putRecord r s).store = false := hstore ▸ (writeRecord_open r hlaw hslot).1
    have hp' : (putRecord r s).store.pages[(putRecord r s).store.writePage]?
        = some ⟨.filling, p.records ++ [r]⟩ := by simp [hput, hlt]
    rw [flushRecords_of_open r _ ho, ih q hlaw' ho' hp' (by simp only [hput]; omega), hput]
    simp [BitVec.or_assoc, Nat.add_assoc, Nat.add_comm 1]

/-- A SEALED page away from the write position becomes EMPTY (R134). -/
theorem releaseSealed_of_ne {n : Nat} {s : State} (h : n ≠ s.store.writePage) :
    releaseSealed n s =
      { s with store := { s.store with pages := s.store.pages.set n ⟨.empty, []⟩ } } :=
  if_neg h

/-- The SEALED page at the write position takes the held entries into its first slots (R135). -/
theorem releaseSealed_writePage {s : State} {p : Page} (hlaw : StoreLaw s.store)
    (hp : s.store.pages[s.store.writePage]? = some p) (hs : p.state = .sealed) :
    let held := s.store.held
    let page : Page := if held = [] then ⟨.empty, []⟩ else ⟨.filling, held⟩
    releaseSealed s.store.writePage s =
      { s with
        store :=
          { pages := s.store.pages.set s.store.writePage page, writePage := s.store.writePage
            writeSlot := held.length, held := [] }
        alerts :=
          if held = [] then s.alerts else { s.alerts with latches := s.alerts.latches ||| 0x100#9 } } := by
  intro held page
  obtain ⟨hpages, hbands, _⟩ := hlaw
  have hslot : s.store.writeSlot = 0 := by
    obtain ⟨_, _, _, hposition⟩ := hpages
    simpa [hs] using hposition _ _ hp
  have hlt : s.store.writePage < s.store.pages.length := (List.getElem?_eq_some_iff.mp hp).1
  have hfive : held.length ≤ 5 := held_length hbands
  have hflush : releaseSealed s.store.writePage s =
      flushRecords held
        { s with store := { emptyPage s.store.writePage s.store with held := [] } } := if_pos rfl
  rw [hflush]
  cases hheld : held with
  | nil => simp [page, hheld, flushRecords, emptyPage, hslot]
  | cons r rest =>
    rw [hheld, List.length_cons] at hfive
    have hempty : (emptyPage s.store.writePage s.store).pages[s.store.writePage]? = some ⟨.empty, []⟩ := by
      simp [emptyPage, hlt]
    have hopen : storeBlocked (emptyPage s.store.writePage s.store) = false := by
      simp [storeBlocked, writePageOf, emptyPage, hlt]
    rw [flushRecords_cons r rest (emptyPage_keeps _ hpages hp hs) hopen hempty
      (by simp only [emptyPage, hslot]; omega)]
    simp [page, hheld, emptyPage, hslot]

/-- Settles O50: the argument check, then the page by its state. -/
theorem releasePage : Obligations.ReleasePage := by
  intro s page hn hserve hlaw n taken
  have hexec : exec (.releasePage page) s = .next (releasePageActs page s) := by
    rw [exec_after, after, served_takeDue hn hserve]
  have htaken : (mosi (.releasePage page)).getD [] = taken := rfl
  simp only [hexec, releasePageActs, respond_eq_answered, htaken]
  refine ⟨fun hbad => by rw [if_pos hbad]; rfl, fun p hp => ?_⟩
  have hrange : ¬ 15 < page.toNat := by
    obtain ⟨⟨hlen, _⟩, _⟩ := hlaw
    have hlt : n < s.store.pages.length := (List.getElem?_eq_some_iff.mp hp).1
    rw [hlen] at hlt
    exact Nat.not_lt.mpr (Nat.le_of_lt_succ hlt)
  rw [if_neg hrange, show s.store.pages[page.toNat]? = some p from hp]
  refine ⟨fun hs => ?_, fun hs => ?_, fun hs hne => ?_, fun hs hw => ?_⟩
  · simp only [hs]
    rfl
  · simp only [hs]
    rfl
  · simp only [hs]
    rw [releaseSealed_of_ne hne]
    rfl
  · have hpage : s.store.pages[s.store.writePage]? = some p := hw ▸ hp
    simp only [hs]
    rw [show page.toNat = s.store.writePage from hw, hw, releaseSealed_writePage hlaw hpage hs]
    rfl

end Sys2Proof.Machine
end

section
/-! SUPPORT. RESETN: what it keeps and what it latches at its end, and a part held in reset. -/

namespace Sys2Proof.Machine

/-! ## RESETN -/

/-- The causes that the end of RESETN latches: SUPPLY where PFW is active, and STORE_BLOCKED where the store
is blocked (R140, R143). -/
theorem raiseIf_storeBlocked_reset (pfw blocked : Bool) :
    raiseIf blocked .storeBlocked (raiseIf pfw .supply Alerts.reset) =
      { Alerts.reset with
        latches := (if pfw then 1#9 else 0#9) ||| (if blocked then 8#9 else 0#9) } := by
  rw [raiseIf_supply_reset]
  cases pfw <;> cases blocked <;> decide

/-- The end of RESETN: the reset's end on the retained part, and its alerts (R140, R143, R158). -/
theorem resetPart_ended (pfw csnLow : Bool) (s : State) :
    resetPart (.ended pfw csnLow) s =
      { endReset pfw csnLow (retainedPart s) with
        alerts :=
          { Alerts.reset with
            latches := (if pfw then 1#9 else 0#9) ||| (if storeBlocked s.store then 8#9 else 0#9) } } := by
  rw [← raiseIf_storeBlocked_reset]
  rfl

/-! ## A part held in reset -/

/-- Without a configuration no control line is high (R114). -/
theorem ctlPin_of_unconfigured {s : State} (hc : s.config = none) (k : Fin 4) : ctlPin s k = false := by
  simp [ctlPin, ctlOutput, hc]

/-- A channel that is not SENDING keeps TXEN inactive and TXD at the stop level (R52). -/
theorem txPins_of_not_sending {s : State} {ch : Channel} (h : (chanOf s.line ch).access ≠ .sending) (n : Nat) :
    txenPin s ch = false ∧ txdPin s ch n = true := by
  have htxen : txenPin s ch = false := by simp [txenPin, h]
  exact ⟨htxen, by simp [txdPin, htxen]⟩

/-- With no cause latched ALERTN is released (R170). -/
theorem alertnLow_of_no_latch {s : State} (h : s.alerts.latches = 0) : alertnLow s = false := by
  simp [alertnLow, alertAsserted, unmaskedLatches, h]

theorem isReset_eq_false_iff (i : Instr) :
    isReset i = false ↔ ∀ r, i ≠ .powerOnReset r ∧ i ≠ .resetn r := by
  cases i <;> simp [isReset]

/-- Settles O5: the two phases of the row, then a part held in reset by its law. -/
theorem resetnKeepsTheRetentionDomain : Obligations.ResetnKeepsTheRetentionDomain := by
  refine ⟨?_, fun s i hheld hlaw => ?_⟩
  · intro pfw csnLow s u kept supply
    rw [exec_after, exec_after]
    simp only [after, resetPart_ended, kept, supply, ← takeDue_supply s, ← takeDue_pending s, ← takeDue_draws s,
      ← takeDue_port s]
    exact ⟨rfl, rfl⟩
  · obtain ⟨hc, _, _, ⟨_, hl, _⟩, ⟨_, hh, _⟩, hlatches, _⟩ := hlaw hheld
    have hquiet : ∀ ch, (chanOf s.line ch).access ≠ .sending := by
      intro ch
      cases ch
      · simp [chanOf, hl]
      · simp [chanOf, hh]
    refine ⟨ctlPin_of_unconfigured hc, fun ch n => txPins_of_not_sending (hquiet ch) n,
      alertnLow_of_no_latch hlatches, fun hi hcs => ?_⟩
    rw [exec_after]
    obtain ⟨p, hp, hafter⟩ := after_held ((isReset_eq_false_iff i).mpr hi) hcs hlaw hheld
    exact ⟨p, hp, congrArg _ hafter⟩

end Sys2Proof.Machine
end

section
/-! SUPPORT. Leaving HOLD: the release timer as PFW changes, and the two ways out as record updates. -/

namespace Sys2Proof.Machine

/-! ## RELEASE_TIMER -/

/-- A release timer that runs to its end with PFW inactive leaves HOLD, and no new entry follows (R152). -/
theorem exec_releaseTimer_of_running {s : State} (hop : s.supply.op = .hold) (hrel : s.supply.release ≠ none)
    (hpfw : s.supply.pfw = false) : exec .releaseTimer s = .next (leaveHold s) := by
  have hleft : (leaveHold s).supply.pfw = false := by
    unfold leaveHold
    split <;> exact hpfw
  rw [exec_after, after, if_pos ⟨hop, Option.isSome_iff_ne_none.mpr hrel⟩, holdIfWarned_of_inactive hleft]

/-- The exit to START stops the timer and latches SUPPLY, and nothing more (R152). -/
theorem leaveHold_start {s : State} (hret : s.supply.ret = .start) : leaveHold s = endHold s := by
  simp [leaveHold, hret]

/-- The exit to RESYNC wakes every block and begins the unaligned interval of the next ID (R152). -/
theorem leaveHold_resync {s : State} {c : Setup} (hret : s.supply.ret = .resync) (hc : s.config = some c) :
    leaveHold s = enterResync c (succId (perDay c.lengthCode) s.it.id) (wakeBlocks (endHold s)) := by
  simp [leaveHold, hret, hc]

/-- Settles O52: the rows of PFW by their condition, the release timer by the return state. -/
theorem leavingHold : Obligations.LeavingHold := by
  refine ⟨fun s => ⟨fun hop hpfw => ?_, fun helse => ?_, fun hop => ?_, fun hop => ?_⟩,
    fun s hop => ⟨fun hrel => ?_, fun hrel hpfw => ⟨fun hret => ?_, ?_⟩⟩⟩
  · rw [exec_after, after, if_pos ⟨hop, hpfw⟩]
    rfl
  · have hnot : ¬ (s.supply.op = .hold ∧ s.supply.pfw = true) := by
      rintro ⟨hop, hpfw⟩
      rcases helse with hne | hoff
      · exact hne hop
      · simp [hpfw] at hoff
    rw [exec_after, after, if_neg hnot]
  · rw [exec_after, after, if_pos hop]
  · rw [exec_after, after, if_neg hop]
  · rw [exec_after, after, if_neg (by simp [hrel])]
  · rw [exec_releaseTimer_of_running hop hrel hpfw, leaveHold_start hret]
    rfl
  · intro c hc hret next waits
    rw [exec_releaseTimer_of_running hop hrel hpfw, leaveHold_resync hret hc]
    rfl

end Sys2Proof.Machine
end

section
/-! SUPPORT. The machine: one step, and every command completes with the queue as it was. -/

namespace Sys2Proof.Machine

/-- No command touches the queue (log 24), and no reset does (log 19). -/
theorem after_pending (i : Instr) (s : State) : (after i s).pending = s.pending := by
  cases i <;> simp only [after]
  case countCompleteBoundary => (repeat' split) <;> simp
  case unalignedBoundary => (repeat' split) <;> simp
  case windowClose => split <;> simp
  case pfwInactive => split <;> rfl
  case releaseTimer => split <;> simp
  case powerOnReset phase => exact resetPhase_pending phase (clearedPart s)
  case resetn phase =>
    rw [resetPart, alertBlocked_pending, resetPhase_pending]
    exact takeDue_pending s
  case loadConfig => split <;> simp
  case discardedTransaction csn => cases csn <;> simp
  case pfwActiveInHold => split <;> rfl
  all_goals simp

/-- Settles O2: the state that `after` gives is the one each arm answers. -/
theorem everyCommandCompletes : Obligations.EveryCommandCompletes :=
  fun i s => ⟨after i s, exec_after i s, after_pending i s⟩

/-- Settles O1: the two cases of the queue. -/
theorem stepRunsTheFrontCommand : Obligations.StepRunsTheFrontCommand := by
  refine fun s => ⟨fun hempty => ?_, fun i rest hfront => ?_⟩
  · rw [step, hempty]
  · rw [step, hfront]

end Sys2Proof.Machine
end

section
/-! SUPPORT. The alerts at the readout port: READ_ALERT, ACK_ALERT and SET_MASK (R169 to R172). -/

namespace Sys2Proof.Machine

/-! ## Causes by their codes -/

theorem causeBit_ne_zero (c : Cause) : causeBit c ≠ 0#9 := by cases c <;> decide

/-- Among nine bits a cause's is the one numbered by its code (R178). -/
theorem and_causeBit (w : BitVec 9) (c : Cause) :
    (w &&& causeBit c != 0) = w.getLsbD (causeCode c - 1) := by
  have hand : w &&& causeBit c = if w.getLsbD (causeCode c - 1) then causeBit c else 0#9 := by
    simpa only [causeBit, BitVec.twoPow_eq] using BitVec.and_twoPow w (causeCode c - 1)
  rw [hand]
  cases w.getLsbD (causeCode c - 1) <;> simp [causeBit_ne_zero]

theorem latched_eq (c : Cause) (a : Alerts) : latched c a = a.latches.getLsbD (causeCode c - 1) :=
  and_causeBit a.latches c

/-- The code that `causeOf` reads is the cause's own (R178). -/
theorem causeOf_eq_some {code : Byte} (h1 : 1 ≤ code.toNat) (h9 : code.toNat ≤ 9) :
    ∃ c, causeOf code = some c ∧ causeCode c = code.toNat := by
  unfold causeOf
  generalize code.toNat = n at h1 h9
  interval_cases n <;> exact ⟨_, rfl, rfl⟩

/-- Codes outside 1 to 9 name no cause (R178). -/
theorem causeOf_eq_none {code : Byte} (h : code.toNat = 0 ∨ 9 < code.toNat) : causeOf code = none := by
  unfold causeOf
  split
  case h_10 => rfl
  all_goals omega

/-! ## READ_ALERT -/

/-- The cause of this code is latched and unmasked, SUPPLY always counting as unmasked (R169, R171). -/
def showsCode (a : Alerts) (n : Nat) : Bool :=
  a.latches.getLsbD (n - 1) && (n == 1 || !a.mask.getLsbD (n - 1))

theorem unmaskedLatches_getLsbD (a : Alerts) {n : Nat} (h1 : 1 ≤ n) (h9 : n ≤ 9) :
    (unmaskedLatches a).getLsbD (n - 1) = showsCode a n := by
  interval_cases n <;> simp [unmaskedLatches, showsCode]

/-- The cause READ_ALERT returns is, by its code, the first of 1 to 9 that shows (R171). -/
theorem topCause_code (a : Alerts) :
    (topCause a).map causeCode = (List.range' 1 9).find? (showsCode a) := by
  have hcodes : List.range' 1 9 = causesInOrder.map causeCode := rfl
  have hshows : ∀ c, (unmaskedLatches a &&& causeBit c != 0) = (showsCode a ∘ causeCode) c := by
    intro c
    rw [and_causeBit]
    exact unmaskedLatches_getLsbD a (by cases c <;> decide) (by cases c <;> decide)
  rw [hcodes, List.find?_map, topCause, funext hshows]

/-- ALERTN is released exactly while no cause shows (R170). -/
theorem alertAsserted_eq_false_iff (a : Alerts) :
    alertAsserted a = false ↔ ∀ n, 1 ≤ n → n ≤ 9 → showsCode a n = false := by
  have hzero : alertAsserted a = false ↔ unmaskedLatches a = 0 := by simp [alertAsserted]
  rw [hzero]
  refine ⟨fun h n h1 h9 => ?_, fun h => BitVec.eq_of_getLsbD_eq fun k hk => ?_⟩
  · rw [← unmaskedLatches_getLsbD a h1 h9, h]
    simp
  · rw [← Nat.add_sub_cancel k 1, unmaskedLatches_getLsbD a (by omega) (by omega), h _ (by omega) (by omega)]
    simp

/-- The response of READ_ALERT by the code of the cause it returns (R171). -/
theorem readAlertActs_eq (s : State) :
    readAlertActs s =
      ((topCause s.alerts).map causeCode).elim (answered [0x08#8] 0xA6#8 [] s)
        fun n => answered [0x08#8] 0xA0#8 [BitVec.ofNat 8 n] s := by
  unfold readAlertActs
  cases topCause s.alerts with
  | none => rfl
  | some c => cases c <;> rfl

/-- READ_ALERT writes its response alone, so that a second one answers the same (R171). -/
theorem readAlertActs_idem (s : State) : readAlertActs (readAlertActs s) = readAlertActs s := by
  have halerts : (readAlertActs s).alerts = s.alerts := readAlertActs_alerts s
  rw [readAlertActs_eq (readAlertActs s), halerts, readAlertActs_eq s]
  cases (topCause s.alerts).map causeCode <;> rfl

theorem exec_readAlert {s : State} (hn : nothingDue s = true) (hserve : s.port.serving = true) :
    exec .readAlert s = .next (readAlertActs s) := by
  rw [exec_after, after, served_takeDue hn hserve]

/-- Settles O56: the first code that shows is the cause returned. -/
theorem readAlert : Obligations.ReadAlert := by
  intro s hn hserve shows
  rw [exec_readAlert hn hserve]
  refine ⟨fun n h1 h9 hshows hfirst => ?_, fun hnone => ?_, alertAsserted_eq_false_iff s.alerts, ?_⟩
  · have htop : (topCause s.alerts).map causeCode = some n := by
      rw [topCause_code, List.find?_range'_eq_some]
      refine ⟨hshows, List.mem_range'_1.mpr ⟨h1, by omega⟩, fun m h1m hm => ?_⟩
      exact congrArg (!·) (hfirst m h1m hm)
    rw [readAlertActs_eq, htop]
    rfl
  · have htop : (topCause s.alerts).map causeCode = none := by
      rw [topCause_code, List.find?_range'_eq_none]
      intro m h1m hm
      exact congrArg (!·) (hnone m h1m (by omega))
    rw [readAlertActs_eq, htop]
    rfl
  · intro t ht
    obtain rfl : readAlertActs s = t := by simpa using ht
    have hport : (readAlertActs s).port.serving = true := by
      unfold readAlertActs
      split <;> rfl
    have hdue : nothingDue (readAlertActs s) = true := by
      unfold readAlertActs
      split <;> exact hn
    rw [exec_readAlert hdue hport, readAlertActs_idem]

/-! ## ACK_ALERT and SET_MASK -/

/-- SET_MASK takes the nine bits given and leaves SUPPLY unmasked (R169). -/
theorem newMask_eq (mask : BitVec 16) : newMask mask = mask.setWidth 9 &&& 0x1FE#9 := rfl

theorem exec_ackAlert {s : State} (hn : nothingDue s = true) (hserve : s.port.serving = true) (code : Byte) :
    exec (.ackAlert code) s = .next (ackAlertActs code s) := by
  rw [exec_after, after, served_takeDue hn hserve]

theorem exec_setMask {s : State} (hn : nothingDue s = true) (hserve : s.port.serving = true)
    (mask : BitVec 16) : exec (.setMask mask) s = .next (setMaskActs mask s) := by
  rw [exec_after, after, served_takeDue hn hserve]

/-- ACK_ALERT of a code that names a cause, by its latch (R172). -/
theorem ackAlertActs_of_code {code : Byte} (h1 : 1 ≤ code.toNat) (h9 : code.toNat ≤ 9) (s : State) :
    ackAlertActs code s =
      if s.alerts.latches.getLsbD (code.toNat - 1) then
        answered [0x09#8, code] 0xA0#8 []
          { s with
            alerts :=
              { s.alerts with latches := s.alerts.latches &&& ~~~(1#9 <<< (code.toNat - 1)) } }
      else answered [0x09#8, code] 0xA6#8 [] s := by
  obtain ⟨c, hc, hcode⟩ := causeOf_eq_some h1 h9
  simp only [ackAlertActs, hc, latched_eq, clearLatch, causeBit, hcode]
  rfl

/-- Settles O57: ACK_ALERT by its code and latch, SET_MASK by the positions it names. -/
theorem ackAlertAndSetMask : Obligations.AckAlertAndSetMask := by
  intro s hn hserve
  refine ⟨fun code => ?_, fun mask => ?_⟩
  · rw [exec_ackAlert hn hserve]
    refine ⟨fun hbad => ?_, fun h1 h9 hclear => ?_, fun h1 h9 hset => ?_⟩
    · rw [ackAlertActs, causeOf_eq_none hbad]
      rfl
    · rw [ackAlertActs_of_code h1 h9, hclear]
      rfl
    · rw [ackAlertActs_of_code h1 h9, if_pos hset]
  · rw [exec_setMask hn hserve, setMaskActs]
    refine ⟨fun hbad => ?_, fun hok => ?_⟩
    · rw [if_pos hbad]
      rfl
    · rw [if_neg (Nat.not_le.mpr hok), newMask_eq]
      rfl

end Sys2Proof.Machine
end

section
/-! SUPPORT. The law of the Alert Unit: no command but SET_MASK, CUTOFF_SAMPLE and a reset's rows moves the mask,
the re-arm state or the filtered CUTOFF level. -/

namespace Sys2Proof.Machine

/-! ## What the law reads -/

/-- What the law of the Alert Unit reads: the mask, the re-arm state and the filtered CUTOFF level. -/
def gateOf (a : Alerts) (e : Limiter) : BitVec 9 × RearmState × Bool :=
  (a.mask, a.rearm, e.level)

/-- The same of a part. -/
def gate (s : State) : BitVec 9 × RearmState × Bool :=
  gateOf s.alerts s.el

/-- The law of the Alert Unit by what it reads (R168, R169). -/
def GateLaw (g : BitVec 9 × RearmState × Bool) : Prop :=
  g.1 &&& 1#9 = 0 ∧ (g.2.1 = .waiting ↔ g.2.2 = true)

theorem alertLaw_iff (s : State) : AlertLaw s ↔ GateLaw (gate s) := Iff.rfl

/-! ## Latches and the limiter's operations -/

@[simp] theorem gateOf_raise (c : Cause) (a : Alerts) (e : Limiter) : gateOf (raise c a) e = gateOf a e := rfl

@[simp] theorem gateOf_raiseIf (b : Bool) (c : Cause) (a : Alerts) (e : Limiter) :
    gateOf (raiseIf b c a) e = gateOf a e := by cases b <;> rfl

@[simp] theorem gateOf_writeAlerts (t : Store) (a : Alerts) (e : Limiter) :
    gateOf (writeAlerts t a) e = gateOf a e := by simp [writeAlerts]

@[simp] theorem gateOf_judgeBlock (c : Setup) (live : Bool) (net : Nat) (a : Alerts) (e : Limiter) :
    gateOf a (judgeBlock c live net e) = gateOf a e := by
  have hlevel : (judgeBlock c live net e).level = e.level := by
    rcases judgeBlock_cases c live net e with h | h | h | ⟨_, _, h⟩ | h | h | h <;>
      exact h ▸ takeCap_level e
  simp [gateOf, hlevel]

@[simp] theorem gateOf_handCap (n : Nat) (a : Alerts) (e : Limiter) : gateOf a (handCap n e) = gateOf a e := rfl

/-! ## The operations that several blocks take together -/

@[simp] theorem gate_putRecord (r : Record) (s : State) : gate (putRecord r s) = gate s := by
  unfold putRecord
  split
  · rfl
  · simp [gate]

@[simp] theorem gate_flushRecords (rs : List Record) (s : State) : gate (flushRecords rs s) = gate s := by
  induction rs generalizing s with
  | nil => rfl
  | cons r rest ih => exact (ih _).trans (by simp [gate])

@[simp] theorem gate_closeBlock (c : Setup) (j : Bool) (s : State) : gate (closeBlock c j s) = gate s := by
  cases j <;> simp [gate, closeBlock]

@[simp] theorem gate_beginInterval (c : Setup) (id : IntervalId) (e : Nat) (b : Band) (s : State) :
    gate (beginInterval c id e b s) = gate s := rfl

@[simp] theorem gate_pacePresence (c : Setup) (s : State) : gate (pacePresence c s) = gate s := by simp [gate]

@[simp] theorem gate_countBoundary (c : Setup) (s : State) : gate (countBoundary c s) = gate s :=
  gate_pacePresence c _

@[simp] theorem gate_unalignedClose (c : Setup) (s : State) : gate (unalignedClose c s) = gate s :=
  gate_putRecord _ s

@[simp] theorem gate_closeWindow (c : Setup) (s : State) : gate (closeWindow c s) = gate s := by
  unfold closeWindow
  split
  · exact (gate_putRecord _ _).trans (by simp [gate])
  · rfl

@[simp] theorem gate_windowCloses (c : Setup) (s : State) : gate (windowCloses c s) = gate s :=
  gate_closeWindow c s

@[simp] theorem gate_closeOpenBlock (c : Setup) (j : Bool) (s : State) :
    gate (closeOpenBlock c j s) = gate s := by
  unfold closeOpenBlock
  split <;> simp

@[simp] theorem gate_settleOpenWindow (c : Setup) (s : State) : gate (settleOpenWindow c s) = gate s := by
  unfold settleOpenWindow
  split <;> simp

@[simp] theorem gate_soloEffects (c : Setup) (op : OpState) (n : Int) (s : State) :
    gate (soloEffects c op n s) = gate s := by
  unfold soloEffects
  split <;> rfl

@[simp] theorem gate_earlyClose (c : Setup) (k : EarlyCause) (s : State) : gate (earlyClose c k s) = gate s := by
  refine (gate_soloEffects c _ _ _).trans ((gate_putRecord _ _).trans ?_)
  simp

@[simp] theorem gate_takeDue (s : State) : gate (takeDue s) = gate s := by
  unfold takeDue takeDueBoundary takeDueBlock
  (repeat' split) <;> simp

@[simp] theorem gate_takeDueBlock (c : Setup) (s : State) : gate (takeDueBlock c s) = gate s := by
  unfold takeDueBlock
  split <;> simp

@[simp] theorem gate_takeDueWindow (c : Setup) (s : State) : gate (takeDueWindow c s) = gate s := by
  unfold takeDueWindow
  split <;> simp

/-! ## Sets -/

@[simp] theorem gate_missingSet (c : Setup) (s : State) : gate (missingSet c s) = gate s := by
  have hdue : gate (takeAllDue c s) = gate s := by simp [takeAllDue]
  rw [← hdue]
  simp [gate, missingSet, countSet]

@[simp] theorem gate_missingSets (c : Setup) (k : Nat) (s : State) : gate (missingSets c k s) = gate s := by
  induction k generalizing s with
  | zero => rfl
  | succ k ih => exact (ih _).trans (gate_missingSet c s)

@[simp] theorem gate_receivedSet (c : Setup) (q : BitVec 8) (x : Samples) (s : State) :
    gate (receivedSet c q x s) = gate s := by
  show gate (takeDueWindow c (takeDue s)) = gate s
  simp

@[simp] theorem gate_sampleArrives (bytes : List Byte) (n : Nat) (b : Bool) (s : State) :
    gate (sampleArrives bytes n b s) = gate s := by
  unfold sampleArrives takeFrame
  dsimp only
  (repeat' split) <;> simp

@[simp] theorem gate_watchdogExpires (s : State) : gate (watchdogExpires s) = gate s := by
  unfold watchdogExpires
  (repeat' split)
  · rfl
  · exact gate_missingSet _ s
  · rfl

@[simp] theorem gate_blockCloses (s : State) : gate (blockCloses s) = gate s := by
  unfold blockCloses
  split <;> simp

/-! ## Passages between operating states -/

@[simp] theorem gate_enterRun (c : Setup) (id : IntervalId) (e : Nat) (s : State) :
    gate (enterRun c id e s) = gate s := rfl

@[simp] theorem gate_holdClose (s : State) : gate (holdClose s) = gate s := by
  unfold holdClose
  (repeat' split)
  · rfl
  · exact gate_earlyClose _ .hold s
  · rfl

@[simp] theorem gate_enterHold (w : Bool) (s : State) : gate (enterHold w s) = gate s :=
  gate_holdClose s

@[simp] theorem gate_holdIfWarned (s : State) : gate (holdIfWarned s) = gate s := by
  unfold holdIfWarned
  split <;> simp

@[simp] theorem gate_leaveHold (s : State) : gate (leaveHold s) = gate s := by
  unfold leaveHold
  split <;> rfl

@[simp] theorem gate_configAccepted (b : List Byte) (s : State) : gate (configAccepted b s) = gate s := by
  unfold configAccepted leaveStart
  split <;> rfl

@[simp] theorem gate_presetPosition (c : Setup) (id : IntervalId) (e : Nat) (s : State) :
    gate (presetPosition c id e s) = gate s := by
  unfold presetPosition
  dsimp only
  split <;> simp

@[simp] theorem gate_resyncFromRun (c : Setup) (s : State) : gate (resyncFromRun c s) = gate s :=
  gate_earlyClose c .resync s

/-! ## The group line -/

@[simp] theorem gate_countError (ch : Channel) (s : State) : gate (countError ch s) = gate s := by
  simp [gate, countError]

@[simp] theorem gate_setRecv (ch : Channel) (r : RecvState) (s : State) : gate (setRecv ch r s) = gate s := rfl

@[simp] theorem gate_malformedEnds (ch : Channel) (s : State) : gate (malformedEnds ch s) = gate s := by
  unfold malformedEnds
  split <;> simp

@[simp] theorem gate_timeoutEnds (ch : Channel) (s : State) : gate (timeoutEnds ch s) = gate s := by
  unfold timeoutEnds
  split <;> simp

@[simp] theorem gate_passOn (c : Setup) (ch : Channel) (f : GroupFrame) (s : State) :
    gate (passOn c ch f s) = gate s := by
  unfold passOn offerTiming
  (repeat' split)
  case h_2 => exact gate_earlyClose c .adoption s
  all_goals rfl

@[simp] theorem gate_judgeFrame (c : Setup) (ch : Channel) (bytes : List Byte) (s : State) :
    gate (judgeFrame c ch bytes s) = gate s := by
  unfold judgeFrame
  split
  case h_6 => exact gate_passOn c ch _ _
  case h_1 | h_2 => exact gate_countError ch s
  all_goals rfl

@[simp] theorem gate_frameCompletes (ch : Channel) (bytes : List Byte) (s : State) :
    gate (frameCompletes ch bytes s) = gate s := by
  unfold frameCompletes
  (repeat' split) <;> simp

@[simp] theorem gate_echoMissing (ch : Channel) (s : State) : gate (echoMissing ch s) = gate s := by
  unfold echoMissing
  dsimp only
  split
  · simp [gate]
  · rfl

@[simp] theorem gate_guardTrips (ch : Channel) (s : State) : gate (guardTrips ch s) = gate s := by
  unfold guardTrips
  dsimp only
  split <;> rfl

/-! ## The host's rows -/

@[simp] theorem gate_respond (i : Instr) (r : ResultCode) (data : List Byte) (s : State) :
    gate (respond i r data s) = gate s := rfl

/-- A row of the host that is not served leaves the gate, as one that is served does if its command does. -/
theorem gate_served {f : State → State} {s : State} (h : ∀ t, gate (f t) = gate t) :
    gate (served f s) = gate s := by
  unfold served
  split
  · exact h s
  · rfl

@[simp] theorem gate_releaseSealed (n : Nat) (s : State) : gate (releaseSealed n s) = gate s := by
  unfold releaseSealed
  dsimp only
  split
  · exact gate_flushRecords _ _
  · rfl

/-- The rows that move the mask, the re-arm state or the filtered CUTOFF level. -/
def movesGate : Instr → Bool
  | .setMask _ => true
  | .cutoffSample _ => true
  | i => isReset i

/-- Every other row leaves them as they are. -/
theorem after_gate {i : Instr} (hi : movesGate i = false) (s : State) : gate (after i s) = gate s := by
  have hd : gate (takeDue s) = gate s := gate_takeDue s
  cases i <;> simp only [after]
  case setMask | cutoffSample | powerOnReset | resetn => cases hi
  case countCompleteBoundary => (repeat' split) <;> simp
  case unalignedBoundary => (repeat' split) <;> simp
  case windowClose => split <;> simp
  case receptionStart | receiveReady | carrierSenseChange | quietGap | backoffEnd | echo =>
    rw [← hd]
    simp [gate]
  case holdEntry =>
    refine unlessHeld_cases (p := fun t => gate t = gate s) hd ?_
    unfold pfwActive
    split <;> simp
  case pfwInactive | pfwActiveInHold => split <;> rfl
  case releaseTimer => split <;> simp
  case loadConfig =>
    split
    · rfl
    · refine (gate_served fun t => ?_).trans hd
      unfold loadConfigActs
      dsimp only
      (repeat' split) <;> simp
  case releasePage | setDayPosition | resync =>
    refine (gate_served fun t => ?_).trans hd
    simp only [releasePageActs, setDayPositionActs, resyncActs]
    (repeat' split) <;> simp
  case readStatus | readTotals | readRecord | writeLines | releaseCutoff | readAlert | ackAlert | readPeer
      | enableChannel =>
    refine (gate_served fun t => ?_).trans hd
    simp only [readStatusActs, readTotalsActs, readRecordActs, writeLinesActs, releaseCutoffActs, readAlertActs,
      ackAlertActs, readPeerActs, enableChannelActs]
    (repeat' split) <;> rfl
  case unknownCommand =>
    refine gate_served fun t => ?_
    unfold unknownActs
    split <;> rfl
  case discardedTransaction csn =>
    cases csn with
    | begun taken =>
      refine gate_served fun t => ?_
      unfold transactionBegins
      split <;> rfl
    | beforeActing _ => rfl
    | afterwards => rfl
  all_goals simp

/-! ## The rows that move what the law reads -/

/-- Once CUTOFF is raised the re-arm state waits, whether or not it latched (R168). -/
theorem raiseCutoff_waits (a : Alerts) : (raiseCutoff a).rearm = .waiting ∧ (raiseCutoff a).mask = a.mask := by
  unfold raiseCutoff
  cases ha : a.rearm
  · exact ⟨rfl, rfl⟩
  · exact ⟨ha, rfl⟩

/-- A sample that is not the third to differ leaves the filtered level (R116). -/
theorem filterSample_level_of_steady {sample : Bool} {e : Limiter}
    (h : ¬ (sample ≠ e.level ∧ 2 ≤ e.runCount)) : (filterSample sample e).level = e.level := by
  by_cases heq : sample = e.level
  · rw [filterSample_of_agrees heq]
  · rw [filterSample_of_early heq (Nat.lt_of_not_le fun hrun => h ⟨heq, hrun⟩)]

/-- CUTOFF is raised where the filtered level is active after a sample, and armed again as that level becomes
inactive (R168). -/
theorem alertLaw_cutoffSampled (sample : Bool) {s : State} (h : AlertLaw s) :
    AlertLaw (cutoffSampled sample s) := by
  obtain ⟨hmask, hrearm⟩ := h
  obtain ⟨hwaits, hkeeps⟩ := raiseCutoff_waits s.alerts
  by_cases hthird : sample ≠ s.el.level ∧ 2 ≤ s.el.runCount
  · obtain ⟨hne, hrun⟩ := hthird
    rw [cutoffSampled_of_third hne hrun]
    cases sample
    · exact ⟨hmask, by simp [rearmCutoff]⟩
    · exact ⟨by simpa [hkeeps] using hmask, by simp [hwaits, setCutoff, clearCounts]⟩
  · have hlevel := filterSample_level_of_steady hthird
    rw [cutoffSampled_of_steady hthird]
    cases hactive : s.el.level
    · exact ⟨hmask, by simpa [hlevel, hactive] using hrearm⟩
    · exact ⟨by simpa [hkeeps] using hmask, by simp [hwaits, hlevel, hactive]⟩

/-- The mask of SET_MASK leaves SUPPLY unmasked (R169). -/
theorem newMask_supply (mask : BitVec 16) : newMask mask &&& 1#9 = 0 := by
  simp [newMask, BitVec.and_assoc]

theorem alertLaw_setMaskActs (mask : BitVec 16) {s : State} (h : AlertLaw s) :
    AlertLaw (setMaskActs mask s) := by
  unfold setMaskActs
  dsimp only
  split
  · exact h
  · obtain ⟨_, hrearm⟩ := h
    exact ⟨newMask_supply mask, hrearm⟩

/-- After a reset RECORD alone is masked, and CUTOFF is armed with its filtered level inactive (R173). -/
theorem gateLaw_reset : GateLaw (gateOf Alerts.reset Limiter.reset) := by
  unfold GateLaw
  decide

@[simp] theorem gate_resetPhase (phase : ResetPhase) (s : State) : gate (resetPhase phase s) = gate s := by
  cases phase with
  | held => rfl
  | ended pfw csnLow => simp [gate, resetPhase, endReset]

@[simp] theorem gate_alertBlocked (s : State) : gate (alertBlocked s) = gate s := by
  simp [gate, alertBlocked]

/-- Every command keeps the law of the Alert Unit. -/
theorem alertLaw_after (i : Instr) {s : State} (h : AlertLaw s) : AlertLaw (after i s) := by
  have hd : AlertLaw (takeDue s) := by rwa [alertLaw_iff, gate_takeDue]
  by_cases hi : movesGate i
  · cases i
    case setMask mask => exact served_cases hd (alertLaw_setMaskActs mask hd)
    case cutoffSample sample => exact unlessHeld_cases hd (alertLaw_cutoffSampled sample hd)
    case powerOnReset phase =>
      rw [alertLaw_iff, after, gate_resetPhase]
      exact gateLaw_reset
    case resetn phase =>
      rw [alertLaw_iff, after, resetPart, gate_alertBlocked, gate_resetPhase]
      exact gateLaw_reset
    all_goals cases hi
  · rw [alertLaw_iff, after_gate (Bool.eq_false_of_not_eq_true hi)]
    exact h

/-- Settles O16: the rows that move what the law reads, and the rest by leaving it. -/
theorem alertLawIsKept : Obligations.AlertLawIsKept :=
  kept_of_after (fun _ _ h => h) fun i _ h => alertLaw_after i h

end Sys2Proof.Machine
end

section
/-! SUPPORT. The bytes of a transaction on MOSI: a command's bytes are read as that command, and every list of
bytes spells one (R160, R161, R178). -/

namespace Sys2Proof

/-! ## What is read is written again -/

/-- The bytes of a number do not depend on what stands above them (R174). -/
theorem beBytes_mul_add (n k v : Nat) : beBytes n (k * 256 ^ n + v) = beBytes n v := by
  induction n generalizing k v with
  | zero => rfl
  | succ n ih =>
    have hsplit : k * 256 ^ (n + 1) + v = k * 256 * 256 ^ n + v := by ring
    have hdiv : (k * 256 * 256 ^ n + v) / 256 ^ n = k * 256 + v / 256 ^ n := by
      rw [Nat.add_comm, Nat.add_mul_div_right _ _ (by positivity), Nat.add_comm]
    have hbyte : BitVec.ofNat 8 (k * 256 + v / 256 ^ n) = BitVec.ofNat 8 (v / 256 ^ n) :=
      BitVec.eq_of_toNat_eq (by simp only [BitVec.toNat_ofNat]; omega)
    rw [hsplit, beBytes, beBytes, hdiv, hbyte, ih]

/-- What `beNat` reads, `beBytes` writes (R174). -/
theorem beBytes_beNat (bs : List Byte) : beBytes bs.length (beNat bs) = bs := by
  induction bs with
  | nil => rfl
  | cons b bs ih =>
    have hhead : (b.toNat * 256 ^ bs.length + beNat bs) / 256 ^ bs.length = b.toNat := by
      rw [Nat.add_comm, Nat.add_mul_div_right _ _ (by positivity), Nat.div_eq_of_lt (beNat_lt bs), Nat.zero_add]
    rw [beNat_cons, List.length_cons, beBytes, hhead, beBytes_mul_add, ih]
    simp

/-- A field of whole bytes that a word holds is written as it was read (R174). -/
theorem beBytes_fieldAt {bs : List Byte} {off len w : Nat} (hw : w = 8 * len) (h : off + len ≤ bs.length) :
    beBytes len (BitVec.ofNat w (fieldAt bs off len)).toNat = bytesAt bs off len := by
  have hlen : (bytesAt bs off len).length = len := by simp [bytesAt]; omega
  have hfits : fieldAt bs off len < 2 ^ w := by
    rw [hw, Nat.pow_mul]
    exact fieldAt_lt bs off len
  have hwritten := beBytes_beNat (bytesAt bs off len)
  rw [hlen] at hwritten
  rw [BitVec.toNat_ofNat, Nat.mod_eq_of_lt hfits, fieldAt, hwritten]

/-- Two fields side by side are one. -/
theorem bytesAt_append_bytesAt (bs : List Byte) (off m n : Nat) :
    bytesAt bs off m ++ bytesAt bs (off + m) n = bytesAt bs off (m + n) := by
  simp only [bytesAt, List.take_add, List.drop_drop]

/-! ## The command codes -/

theorem eq_ofNat_of_toNat {w k : Nat} {b : BitVec w} (h : b.toNat = k) : b = BitVec.ofNat w k := by
  subst h
  simp

/-- The codes that name a command, by how many argument bytes they take (R178, the first table). -/
theorem argumentBytes_eq_some {code : Byte} {n : Nat} (h : argumentBytes code = some n) :
    (n = 126 ∧ code = 0x01#8)
      ∨ (n = 0 ∧ (code = 0x02#8 ∨ code = 0x03#8 ∨ code = 0x07#8 ∨ code = 0x08#8 ∨ code = 0x0E#8))
      ∨ (n = 1 ∧ (code = 0x05#8 ∨ code = 0x09#8 ∨ code = 0x0C#8))
      ∨ (n = 2 ∧ (code = 0x04#8 ∨ code = 0x06#8 ∨ code = 0x0A#8 ∨ code = 0x0D#8))
      ∨ (n = 8 ∧ code = 0x0B#8) := by
  unfold argumentBytes at h
  split at h <;> cases h
  all_goals
    rename_i hcode
    obtain rfl := eq_ofNat_of_toNat hcode
    decide

/-- A code with its argument bytes is what the command it spells is sent as (R178). -/
theorem mosi_commandOf {code : Byte} {args : List Byte} (h : argumentBytes code = some args.length) :
    mosi (commandOf code args) = some (code :: args) := by
  rcases argumentBytes_eq_some h with ⟨_, rfl⟩ | ⟨hl, hc⟩ | ⟨hl, hc⟩ | ⟨hl, hc⟩ | ⟨hl, rfl⟩
  · rfl
  · obtain rfl := List.length_eq_zero_iff.mp hl
    rcases hc with rfl | rfl | rfl | rfl | rfl <;> rfl
  · obtain ⟨a, rfl⟩ := List.length_eq_one_iff.mp hl
    rcases hc with rfl | rfl | rfl <;> rfl
  · obtain ⟨a, b, rfl⟩ := List.length_eq_two.mp hl
    rcases hc with rfl | rfl | rfl | rfl
    · rfl
    · rfl
    · exact congrArg (fun bs => some (0x0A#8 :: bs)) (beBytes_fieldAt (w := 16) rfl (by simp))
    · rfl
  · have hday := beBytes_fieldAt (bs := args) (off := 0) (len := 2) (w := 16) rfl (by omega)
    have hiod := beBytes_fieldAt (bs := args) (off := 2) (len := 2) (w := 16) rfl (by omega)
    have helapsed := beBytes_fieldAt (bs := args) (off := 4) (len := 4) (w := 32) rfl (by omega)
    have hparts : bytesAt args 0 2 ++ bytesAt args 2 2 ++ bytesAt args 4 4 = args :=
      calc bytesAt args 0 2 ++ bytesAt args 2 2 ++ bytesAt args 4 4
          = bytesAt args 0 4 ++ bytesAt args 4 4 := by rw [bytesAt_append_bytesAt args 0 2 2]
        _ = bytesAt args 0 8 := bytesAt_append_bytesAt args 0 4 4
        _ = args := hl ▸ bytesAt_zero_all args
    have hbytes : mosi (commandOf 0x0B#8 args)
        = some (0x0B#8 :: (bytesAt args 0 2 ++ bytesAt args 2 2 ++ bytesAt args 4 4)) := by
      rw [← hday, ← hiod, ← helapsed]
      rfl
    rw [hbytes, hparts]

/-- The command that a code and all its argument bytes spell can stand for an event (R177, R178). -/
theorem wellFormed_commandOf {code : Byte} {args : List Byte} (h : argumentBytes code = some args.length) :
    wellFormed (commandOf code args) = true := by
  rcases argumentBytes_eq_some h with ⟨hl, rfl⟩ | ⟨_, hc⟩ | ⟨_, hc⟩ | ⟨_, hc⟩ | ⟨_, rfl⟩
  · exact decide_eq_true hl
  · rcases hc with rfl | rfl | rfl | rfl | rfl <;> rfl
  · rcases hc with rfl | rfl | rfl <;> rfl
  · rcases hc with rfl | rfl | rfl | rfl <;> rfl
  · rfl

/-! ## Transactions -/

/-- What the bytes of a transaction spell (R160, R161). -/
theorem transaction_cases (bytes : List Byte) :
    (notYetActing bytes = true ∧ transaction bytes = .discardedTransaction (.beforeActing bytes))
      ∨ (∃ code rest, bytes = code :: rest ∧ argumentBytes code = none
          ∧ transaction bytes = .unknownCommand code)
      ∨ ∃ code args rest, bytes = code :: (args ++ rest) ∧ argumentBytes code = some args.length
          ∧ transaction bytes = commandOf code args := by
  cases bytes with
  | nil => exact .inl ⟨rfl, rfl⟩
  | cons code args =>
    cases hcode : argumentBytes code with
    | none => exact .inr (.inl ⟨code, args, rfl, hcode, by simp [transaction, hcode]⟩)
    | some n =>
      by_cases hshort : args.length < n
      · exact .inl ⟨by simp [notYetActing, hcode, hshort], by simp [transaction, hcode, hshort]⟩
      · refine .inr (.inr ⟨code, args.take n, args.drop n, by simp, ?_, by simp [transaction, hcode, hshort]⟩)
        rw [hcode, List.length_take_of_le (Nat.le_of_not_lt hshort)]

/-- The bytes after the last argument of a command that acts are ignored (R160). -/
theorem transaction_append {bytes : List Byte}
    (h : ∀ taken, transaction bytes ≠ .discardedTransaction taken) (extra : List Byte) :
    transaction (bytes ++ extra) = transaction bytes := by
  rcases transaction_cases bytes with
    ⟨_, hread⟩ | ⟨code, rest, rfl, hcode, _⟩ | ⟨code, args, rest, rfl, hcode, _⟩
  · exact absurd hread (h _)
  · simp [transaction, hcode]
  · simp [transaction, hcode]

/-- A well-formed command's MOSI bytes are read as that command, whichever it is (R160, R161, R178). -/
theorem transaction_mosi (i : Instr) : Laws.MosiTransaction.Statement i := by
  cases i
  case loadConfig block => exact Laws.MosiTransaction.loadConfig block
  case readStatus => exact Laws.MosiTransaction.readStatus
  case readTotals => exact Laws.MosiTransaction.readTotals
  case readRecord page slot => exact Laws.MosiTransaction.readRecord page slot
  case releasePage page => exact Laws.MosiTransaction.releasePage page
  case writeLines mode value => exact Laws.MosiTransaction.writeLines mode value
  case releaseCutoff => exact Laws.MosiTransaction.releaseCutoff
  case readAlert => exact Laws.MosiTransaction.readAlert
  case ackAlert cause => exact Laws.MosiTransaction.ackAlert cause
  case setMask mask => exact Laws.MosiTransaction.setMask mask
  case setDayPosition day iod elapsed => exact Laws.MosiTransaction.setDayPosition day iod elapsed
  case readPeer station => exact Laws.MosiTransaction.readPeer station
  case enableChannel channel action => exact Laws.MosiTransaction.enableChannel channel action
  case resync => exact Laws.MosiTransaction.resync
  case unknownCommand code => exact Laws.MosiTransaction.unknownCommand code
  case discardedTransaction csn => exact Laws.MosiTransaction.discardedTransaction csn
  all_goals exact Laws.MosiTransaction.of_none rfl

/-- Every list of bytes spells a command that can stand for an event, and begins with that command's own bytes
(R160, R161). -/
theorem mosi_transaction (bytes : List Byte) :
    wellFormed (transaction bytes) = true
      ∧ ∃ taken extra, mosi (transaction bytes) = some taken ∧ bytes = taken ++ extra := by
  rcases transaction_cases bytes with
    ⟨hshort, hread⟩ | ⟨code, rest, rfl, hcode, hread⟩ | ⟨code, args, rest, rfl, hcode, hread⟩
  · exact hread ▸ ⟨hshort, bytes, [], rfl, by simp⟩
  · exact hread ▸ ⟨by simp [wellFormed, hcode], [code], rest, rfl, rfl⟩
  · exact hread ▸ ⟨wellFormed_commandOf hcode, code :: args, rest, mosi_commandOf hcode, rfl⟩

end Sys2Proof

namespace Sys2Proof.Machine

/-- The bits of bytes on MOSI, and fewer than eight bits more, are those bytes to the port, whatever MOSI carries
at the falling edges of SCK (R160, R161). -/
theorem transactionOf_bits (bytes : List Byte) {part : List Bool} {data : List (Bool × Bool)}
    (hpart : part.length < 8) (hdata : data.map (·.1) = bytes.flatMap bitsMsbFirst ++ part) :
    transactionOf (data.flatMap fun d => [(true, d.1), (false, d.2)]) = transaction bytes := by
  rw [transactionOf, risingSamples_pulses, hdata, clockedIn_bytes bytes part hpart]

/-- Settles O59: reading and writing a transaction's bytes undo each other, and its bits give its bytes. -/
theorem transactionBytesSpellTheCommand : Obligations.TransactionBytesSpellTheCommand := by
  refine ⟨fun i bytes extra hwf hbytes => ?_, fun bytes => ?_⟩
  · have hread : transaction bytes = i := transaction_mosi i hwf bytes hbytes
    exact ⟨fun hacts => (transaction_append (hread ▸ hacts) extra).trans hread, hread⟩
  · obtain ⟨hwf, hspells⟩ := mosi_transaction bytes
    exact ⟨hwf, hspells, fun part data hpart hdata => transactionOf_bits bytes hpart hdata⟩

end Sys2Proof.Machine
end

section
/-! SUPPORT. Transactions that do not act, and MISO: its bytes, its bits and its falling edges (R160, R161). -/

namespace Sys2Proof.Machine

/-! ## Transactions that change the port alone -/

/-- Codes outside 1 to 14 name no command (R178). -/
theorem argumentBytes_eq_none {code : Byte} (h : code.toNat = 0 ∨ 14 < code.toNat) :
    argumentBytes code = none := by
  unfold argumentBytes
  split
  case h_15 => rfl
  all_goals omega

/-- A code that names no command answers UNKNOWN_COMMAND, and the rest is ignored (R161). -/
theorem exec_unknownCommand {s : State} {code : Byte} (hcode : code.toNat = 0 ∨ 14 < code.toNat)
    (hserve : s.port.serving = true) :
    exec (.unknownCommand code) s = .next { s with port := ⟨.ignoring, [code], some [0xA8#8], true, true⟩ } := by
  rw [exec_after, after, served, if_pos hserve, unknownActs, argumentBytes_eq_none hcode]
  rfl

/-- Bytes that do not yet make a command act are taken (R160). -/
theorem exec_begun {s : State} {bytes : List Byte} (hshort : notYetActing bytes = true)
    (hserve : s.port.serving = true) :
    exec (.discardedTransaction (.begun bytes)) s = .next
      { s with
        port := ⟨if bytes = [] then .takingCommand else .takingArguments, bytes, none, true, true⟩ } := by
  rw [exec_after, after, served, if_pos hserve, transactionBegins, if_pos hshort]
  cases bytes <;> rfl

/-- As CSN rises the port is idle, and what was left of a response is lost (R160, R161). -/
theorem exec_of_csn_rises {csn : CsnEvent} {bytes : List Byte} (h : csn = .beforeActing bytes ∨ csn = .afterwards)
    (s : State) : exec (.discardedTransaction csn) s = .next (csnRises s) := by
  rcases h with rfl | rfl <;> rfl

/-- A LOAD_CONFIG cut short is a transaction that CSN ends before its command acts (R161, log 20). -/
theorem exec_loadConfig_of_short {block : List Byte} (h : block.length < 126) (s : State) :
    exec (.loadConfig block) s = .next (csnRises s) := by
  rw [exec_after, after, if_pos h]

/-- A transaction that is not served has no effect but for the level of CSN (R161). -/
theorem exec_of_not_serving {s : State} {i : Instr} (hn : nothingDue s = true) (hserve : s.port.serving = false)
    (hwf : wellFormed i = true) (hhost : mosi i ≠ none ∨ ∃ bytes, i = .discardedTransaction (.begun bytes))
    (hacts : ∀ bytes, i ≠ .discardedTransaction (.beforeActing bytes)) : exec i s = .next (csnFalls s) := by
  have hunserved : ∀ f, served f (takeDue s) = csnFalls s := fun f => by
    rw [takeDue_of_nothingDue hn, served_of_not_serving hserve]
  rw [exec_after]
  cases i <;> simp only [after, hunserved, served_of_not_serving hserve]
  case loadConfig block =>
    have hlen : block.length = 126 := by simpa [wellFormed] using hwf
    rw [if_neg (by omega)]
  case discardedTransaction csn =>
    cases csn with
    | begun taken => exact congrArg _ (served_of_not_serving hserve)
    | beforeActing taken => exact absurd rfl (hacts taken)
    | afterwards => simp [mosi] at hhost
  all_goals simp [mosi] at hhost

/-! ## The bytes on MISO -/

/-- Fill bytes stand before a response and after it (R160). -/
theorem fill_getD (taken response : List Byte) (n : Nat) :
    ((taken.map fun _ => 0x00#8) ++ response).getD n 0x00#8
      = if n < taken.length then 0x00#8 else response.getD (n - taken.length) 0x00#8 := by
  split
  case isTrue h =>
    rw [List.getD_append _ _ _ _ (by simpa using h)]
    simp
  case isFalse h => rw [List.getD_append_right _ _ _ _ (by simpa using h), List.length_map]

theorem misoByte_of_csn_high {p : Port} (h : p.csnLow = false) (n : Nat) : misoByte p n = none := by
  simp [misoByte, h]

/-- MISO is not driven while the port serves and is idle (R160). -/
theorem misoByte_of_idle {p : Port} (hserve : p.serving = true) (hidle : p.txn = .idle) (n : Nat) :
    misoByte p n = none := by
  simp [misoByte, hserve, hidle]

/-- While command and arguments are clocked MISO carries fill bytes (R160). -/
theorem misoByte_of_taking {p : Port} (hserve : p.serving = true) (hlow : p.csnLow = true)
    (htaking : p.txn = .takingCommand ∨ p.txn = .takingArguments) (n : Nat) :
    misoByte p n = some 0x00#8 := by
  rcases htaking with h | h <;> simp [misoByte, hserve, hlow, h]

/-- A response follows on the bytes of its command (R160). -/
theorem misoByte_answered (taken : List Byte) (result : Byte) (data : List Byte) (s : State) (n : Nat) :
    misoByte (answered taken result data s).port n
      = some (if n < taken.length then 0x00#8 else (result :: data).getD (n - taken.length) 0x00#8) :=
  congrArg some (fill_getD taken (result :: data) n)

/-- The result UNKNOWN_COMMAND is the byte after the command's (R161). -/
theorem misoByte_unknown (code : Byte) (n : Nat) :
    misoByte ⟨.ignoring, [code], some [0xA8#8], true, true⟩ n = some (if n = 1 then 0xA8#8 else 0x00#8) := by
  refine (congrArg some (fill_getD [code] [0xA8#8] n)).trans ?_
  match n with
  | 0 | 1 | n + 2 => simp

/-- Each byte on MISO is sent most significant bit first (R160). -/
theorem misoPin_bit (s : State) (n : Nat) {i : Nat} (hi : i < 8) :
    misoPin s (8 * n + i) = (misoByte s.port n).map fun b => b.getLsbD (7 - i) := by
  have hdiv : (8 * n + i) / 8 = n := by omega
  have hmod : (8 * n + i) % 8 = i := by omega
  simp [misoPin, hdiv, hmod, BitVec.getMsbD, hi]

/-! ## The falling edges of SCK -/

/-- Falling edges are the places where a high level is followed by a low one (R160). -/
theorem fallingEdges_eq (was : Bool) (sck : List Bool) :
    fallingEdges was sck = (((was :: sck).zip sck).filter fun p => p.1 && !p.2).length := by
  induction sck generalizing was with
  | nil => rfl
  | cons level rest ih =>
    rw [fallingEdges, ih]
    cases was <;> cases level <;> simp [Nat.add_comm]

/-- A clock that idles low falls as often as it goes from high to low among its own levels (R160). -/
theorem fallingEdges_low (sck : List Bool) :
    fallingEdges false sck = ((sck.zip sck.tail).filter fun p => p.1 && !p.2).length := by
  cases sck with
  | nil => rfl
  | cons level rest =>
    rw [fallingEdges, fallingEdges_eq]
    simp

/-- MISO keeps its level but where SCK falls (R160). -/
theorem misoAfter_of_not_falling (s : State) {sck : List Bool} {level : Bool}
    (h : ¬ (sck.getLast? = some true ∧ level = false)) : misoAfter s (sck ++ [level]) = misoAfter s sck := by
  have hlast : (sck.getLastD false && !level) = false := by
    rw [List.getLastD_eq_getLast?]
    cases level
    · cases hlast : sck.getLast? with
      | none => rfl
      | some last => simpa [hlast] using h
    · simp
  rw [misoAfter, fallingEdges_append, hlast]
  rfl

/-- After whole pulses of SCK, MISO carries the bit of their number (R160). -/
theorem misoAfter_pulses (s : State) (n : Nat) :
    misoAfter s (List.replicate n [true, false]).flatten = misoPin s n := by
  rw [misoAfter, fallingEdges_pulses]

/-- Settles O58: each row by its own equation, MISO by its bytes, bits and falling edges. -/
theorem transactionsThatDoNotAct : Obligations.TransactionsThatDoNotAct := by
  refine ⟨fun s code bytes block => ?_, fun s i hn hserve hwf hhost hacts => ?_,
    fun s taken data result n => ?_, fun s sck level n => ?_⟩
  · refine ⟨exec_unknownCommand, exec_begun, fun csn hcsn => exec_of_csn_rises hcsn s, fun hshort => ?_⟩
    rw [exec_loadConfig_of_short hshort, exec_of_csn_rises (.inl rfl)]
  · exact exec_of_not_serving hn hserve hwf hhost hacts
  · exact ⟨misoByte_answered taken result data s n, fun hhigh => misoByte_of_csn_high hhigh n,
      fun bytes csn hcsn => ⟨csnRises s, exec_of_csn_rises hcsn s, misoByte_of_csn_high rfl n⟩,
      fun hserve hidle => misoByte_of_idle hserve hidle n,
      fun hserve hlow htaking => misoByte_of_taking hserve hlow htaking n,
      fun code hcode hserve => ⟨_, exec_unknownCommand hcode hserve, misoByte_unknown code n⟩,
      fun i hi => misoPin_bit s n hi⟩
  · intro falls pulses
    have hpulses : misoAfter s pulses = misoPin s n := misoAfter_pulses s n
    have hrise : misoAfter s (pulses ++ [true]) = misoAfter s pulses :=
      misoAfter_of_not_falling s fun ⟨_, hlow⟩ => nomatch hlow
    exact ⟨misoAfter_of_not_falling s, by rw [misoAfter, fallingEdges_low], hpulses, hrise.trans hpulses⟩

end Sys2Proof.Machine
end
